-- ==== Sys2Proof/Word.lean ====
section
/-! DEFINITION. The word types of the CN-416 and the fixed-size tables its blocks keep (a table is a
vector looked up and changed entry by entry). -/

namespace Sys2Proof

/-- One byte of card memory, of a record, or of link data. -/
abbrev Byte := BitVec 8

/-- A software tag (R67, R198). -/
abbrev Tag := BitVec 16

/-- A host address as seen on the PCIe link. -/
abbrev HostAddr := BitVec 64

/-- A partition number. -/
abbrev PNum := Fin 16

/-- A transfer slot number. -/
abbrev SNum := Fin 32

/-- A window number. -/
abbrev WNum := Fin 64

/-- A fence number. -/
abbrev FNum := Fin 8

/-- A staging buffer number. -/
abbrev BNum := Fin 128

/-- A read tag number of the Host Link Unit. -/
abbrev TNum := Fin 64

/-- An interrupt vector number. -/
abbrev VNum := Fin 18

section Tables
variable {n : Nat} {α β : Type}

/-- Entry `i` of a table. -/
def look (v : Vector α n) (i : Fin n) : α := v[i.val]

/-- The table with entry `i` changed by `f`. -/
def upd (v : Vector α n) (i : Fin n) (f : α → α) : Vector α n := v.set i.val (f (look v i))

/-- The table whose entry `i` is `f i`. -/
def tabulate (f : Fin n → α) : Vector α n := ⟨(List.ofFn f).toArray, by simp⟩

/-- Every entry changed by `f`, which also sees the entry's number. -/
def mapTab (f : Fin n → α → β) (v : Vector α n) : Vector β n := tabulate fun i => f i (look v i)

/-- The lowest number that satisfies `p`. -/
def lowest (p : Fin n → Bool) : Option (Fin n) := (List.finRange n).find? p

/-- The sum of `f` over all numbers. -/
def total (f : Fin n → Nat) : Nat := ((List.finRange n).map f).sum

/-- All numbers that satisfy `p`, ascending. -/
def which (p : Fin n → Bool) : List (Fin n) := (List.finRange n).filter p

end Tables

/-- Insertion of `x` into a list kept ascending by `rank`. -/
def insertBy {α : Type} (rank : α → Nat) (x : α) : List α → List α
  | [] => [x]
  | y :: ys => if rank x ≤ rank y then x :: y :: ys else y :: insertBy rank x ys

/-- A list sorted ascending by `rank`. -/
def sortBy {α : Type} (rank : α → Nat) : List α → List α
  | [] => []
  | x :: xs => insertBy rank x (sortBy rank xs)

/-- The list up to its first element with `p`, that one included. -/
def upTo {α : Type} (p : α → Bool) : List α → List α
  | [] => []
  | x :: xs => if p x then [x] else x :: upTo p xs

/-- The number `n` as an entry number of a table of `k` entries, if it is one. -/
def asNum (k : Nat) (n : Nat) : Option (Fin k) := if h : n < k then some ⟨n, h⟩ else none

end Sys2Proof
end

