-- ==== Sys2Proof/Syntax.lean ====
section
/-! DEFINITION. The commands of the CN-416: one constructor per row of spec/opcode_table.json, with the row's
operands; and the submission record, the one other record the part reads (R67, R196). -/

namespace Sys2Proof

/-- How a host access covers a 64-bit base register: whole, or one 32-bit half (section 10.2). -/
inductive BaseAccess where
  | full (v : BitVec 64)
  | low (v : BitVec 32)
  | high (v : BitVec 32)
  deriving DecidableEq, Repr

/-- A submission record as read by the Fetch Scheduler (R67; byte places in R196). -/
structure SubRecord where
  op : BitVec 8
  flags : BitVec 8
  tag : Tag
  length : BitVec 32
  hostAddr : HostAddr
  primaryWindow : BitVec 8
  secondaryWindow : BitVec 8
  reservedLow : BitVec 16
  primaryOffset : BitVec 32
  secondaryOffset : BitVec 32
  /-- Pattern byte `j` is bits `8j+7..8j`. -/
  pattern : BitVec 64
  reservedHigh : BitVec 224
  deriving DecidableEq, Repr

/-- The commands. An administrative command row stands for the step in which the Admin Engine's outstanding
command read returns with that command (R164); `rsv` says that some reserved byte of its record is not zero,
and the parameters carry every value their bytes can hold (R195, R198). -/
inductive Instr where
  /-- R194. `strap`: the setting the part reads from the two strap pins (R1). -/
  | powerOnReset (strap : BitVec 2)
  /-- R194. -/
  | busReset (strap : BitVec 2)
  /-- R5: the scrub writes its last word. -/
  | scrubComplete
  /-- R193: a CONTROL write with FUNCTION_RESET 1; `enable` is its ENABLE bit, which does not matter (R185). -/
  | functionReset (enable : Bool)
  /-- R193. -/
  | pcieFunctionLevelReset
  /-- R190: a CONTROL write with FUNCTION_RESET 0 and ENABLE 1. -/
  | enableAttempt
  /-- R191: a CONTROL write with FUNCTION_RESET 0 and ENABLE 0. -/
  | stop
  /-- R187. -/
  | adminSqBaseWrite (a : BaseAccess)
  /-- R187. -/
  | adminCqBaseWrite (a : BaseAccess)
  /-- R187. -/
  | adminSizesWrite (v : BitVec 32)
  /-- R184: a write of `width` bytes at `offset` that the part ignores. -/
  | registerWriteIgnored (offset : BitVec 12) (width : Nat) (value : BitVec 64)
  /-- R186. -/
  | statusRead
  /-- R43: selector `p`. -/
  | notifySqTail (p : PNum) (index : BitVec 16)
  /-- R44: selector 16 + `p`. -/
  | notifyCqHead (p : PNum) (index : BitVec 16)
  /-- R162: selector 32. -/
  | notifyAdminSqTail (index : BitVec 16)
  /-- R170: selector 33. -/
  | notifyAdminCqHead (index : BitVec 16)
  /-- R152: selector 34. -/
  | notifyEventRingHead (index : BitVec 16)
  /-- R188: a selector from 35 to 255. -/
  | notifyBadSelector (selector : BitVec 8) (index : BitVec 16)
  /-- R163. -/
  | adminCommandReadIssue
  /-- R34, R35. -/
  | partitionOpen (tag : Tag) (rsv : Bool) (partition sqLog cqLog depth reserve limit : BitVec 8) (sqBase cqBase : HostAddr)
  /-- R36. -/
  | partitionQuiesce (tag : Tag) (rsv : Bool) (partition : BitVec 8)
  /-- R38. -/
  | partitionResume (tag : Tag) (rsv : Bool) (partition : BitVec 8)
  /-- R39. -/
  | partitionClose (tag : Tag) (rsv : Bool) (partition : BitVec 8)
  /-- R50. -/
  | reportCounters (tag : Tag) (rsv : Bool) (partition clear : BitVec 8) (address : HostAddr)
  /-- R147. -/
  | dispositionSet (tag : Tag) (rsv : Bool) (partition cls disposition : BitVec 8)
  /-- R7 to R9. -/
  | windowOpen (tag : Tag) (rsv : Bool) (window owner access : BitVec 8) (cardBase length : BitVec 64)
  /-- R10. -/
  | windowLock (tag : Tag) (rsv : Bool) (window : BitVec 8)
  /-- R11. -/
  | windowClose (tag : Tag) (rsv : Bool) (window : BitVec 8)
  /-- R25, R26. -/
  | fenceSet (tag : Tag) (rsv : Bool) (fence : BitVec 8) (cardBase length : BitVec 64)
  /-- R28. -/
  | fenceClear (tag : Tag) (rsv : Bool) (fence : BitVec 8)
  /-- R29. -/
  | fenceLock (tag : Tag) (rsv : Bool)
  /-- R115. -/
  | poolSet (tag : Tag) (rsv : Bool) (partition reserve limit : BitVec 8)
  /-- R116. -/
  | poolWatermark (tag : Tag) (rsv : Bool) (watermark : BitVec 8)
  /-- R137, R138. -/
  | vectorSet (tag : Tag) (rsv : Bool) (vector enable threshold holdoff : BitVec 8) (address : HostAddr) (data : BitVec 32)
  /-- R156. -/
  | eventRingSet (tag : Tag) (rsv : Bool) (size : BitVec 16) (base : HostAddr)
  /-- R180. -/
  | linkSet (tag : Tag) (rsv : Bool) (timeout : BitVec 16)
  /-- R164: an opcode that names no command. -/
  | unknownOpcode (opcode : BitVec 8) (tag : Tag)
  /-- R57, R58: one choice of the Fetch Scheduler. -/
  | servePartition
  /-- R177: the request at the front of the read queue is issued. -/
  | hostReadRequestIssue
  /-- R178: a part of the data of the request on `tag`, at `offset` of the request. -/
  | hostReadPartReturn (tag : TNum) (offset : Nat) (data : List Byte)
  /-- R178. -/
  | hostReadErrorResponse (tag : TNum)
  /-- R179. -/
  | hostReadTimeout (tag : TNum)
  /-- R179. -/
  | tagQuarantineExpiry (tag : TNum)
  /-- R2: the outstanding card read named `access` ends with its data. -/
  | cardReadDataReturn (access : Nat)
  /-- R3: the outstanding card read named `access` shows an uncorrectable error. -/
  | cardReadEccError (access : Nat)
  /-- R2, R4: the outstanding card write named `access` is acknowledged; `badFirst` and `badLast` say that the
  merge read of its first or last word found an uncorrectable error, where the write covers that word only in part
  and has not come to it before this step (notes/assumptions/15.md). -/
  | cardWriteAcknowledge (access : Nat) (badFirst badLast : Bool)
  /-- R181: the next posted write is placed on the link. -/
  | postedWriteIssue
  /-- R144: the error path step of the failed group in `slot`. -/
  | errorPathStep (slot : SNum)
  /-- R132: the holdoff timer of `vector` expires. -/
  | holdoffExpiry (vector : VNum)
  deriving DecidableEq, Repr

end Sys2Proof
end

