-- ==== Sys2Proof/WellFormed.lean ====
section
/-! DEFINITION. Which operands a command can have: the checks that the operand types do not already make. -/

namespace Sys2Proof

/-- The opcodes of the seventeen administrative commands (R198). -/
def commandOpcodes : List Nat :=
  [0x01, 0x02, 0x03, 0x04, 0x05, 0x06, 0x10, 0x11, 0x12, 0x18, 0x19, 0x1A, 0x20, 0x21, 0x28, 0x30, 0x38]

/-- The offsets of the register window that take writes: CONTROL, the two halves of each base register,
ADMIN_SIZES and NOTIFY (R183). -/
def writableOffsets : List Nat := [0x004, 0x010, 0x014, 0x018, 0x01C, 0x020, 0x040]

/-- R184: a write that the part ignores: narrower than 32 bits, or to IDENT, STATUS or an offset not in the table. A
wider write is judged by the offset it starts at: one that starts at IDENT, at 00Ch or at 03Ch is ignored whole, though it
also covers CONTROL, half of ADMIN_SQ_BASE or NOTIFY (DESIGN CHOICE, notes/assumptions/19.md). -/
def ignoredWrite (offset width : Nat) : Bool :=
  decide (width < 4) || !(writableOffsets.contains offset)

/-- The operands are ones the command can have. -/
def Instr.wellFormed : Instr → Bool
  | .registerWriteIgnored offset width _ =>
    decide (0 < width) && decide (width ≤ 8) && ignoredWrite offset.toNat width
  | .notifyBadSelector selector _ => decide (35 ≤ selector.toNat)
  | .unknownOpcode opcode _ => !(commandOpcodes.contains opcode.toNat)
  | .hostReadPartReturn _ offset data => decide (0 < data.length) && decide (offset + data.length ≤ 512)
  | .powerOnReset _ | .busReset _ | .scrubComplete | .functionReset _ | .pcieFunctionLevelReset | .enableAttempt
  | .stop | .adminSqBaseWrite _ | .adminCqBaseWrite _ | .adminSizesWrite _ | .statusRead | .notifySqTail _ _
  | .notifyCqHead _ _ | .notifyAdminSqTail _ | .notifyAdminCqHead _ | .notifyEventRingHead _ | .adminCommandReadIssue
  | .partitionOpen _ _ _ _ _ _ _ _ _ _ | .partitionQuiesce _ _ _ | .partitionResume _ _ _ | .partitionClose _ _ _
  | .reportCounters _ _ _ _ _ | .dispositionSet _ _ _ _ _ | .windowOpen _ _ _ _ _ _ _ | .windowLock _ _ _
  | .windowClose _ _ _ | .fenceSet _ _ _ _ _ | .fenceClear _ _ _ | .fenceLock _ _ | .poolSet _ _ _ _ _
  | .poolWatermark _ _ _ | .vectorSet _ _ _ _ _ _ _ _ | .eventRingSet _ _ _ _ | .linkSet _ _ _ | .servePartition
  | .hostReadRequestIssue | .hostReadErrorResponse _ | .hostReadTimeout _ | .tagQuarantineExpiry _
  | .cardReadDataReturn _ | .cardReadEccError _ | .cardWriteAcknowledge _ _ _ | .postedWriteIssue | .errorPathStep _
  | .holdoffExpiry _ => true

end Sys2Proof
end

