-- ==== Sys2Proof/Decode.lean ====
section
/-! DEFINITION. The records the part reads: byte order (R195), the submission record (R196), the administrative
command (R198), each with its encoder; the writes of the register window (R183, R184, R188); and the table's words
(no row of the table has any). -/

namespace Sys2Proof

/-! ### Byte order -/

/-- The value of bytes stored least significant byte first (R195). -/
def leNat : List Byte → Nat
  | [] => 0
  | b :: bs => b.toNat + 256 * leNat bs

/-- `n` bytes of the value `v`, least significant byte first (R195). -/
def leBytes : Nat → Nat → List Byte
  | 0, _ => []
  | n + 1, v => BitVec.ofNat 8 v :: leBytes n (v / 256)

/-- The field of `len` bytes at byte `off` of a record. -/
def field (bs : List Byte) (off len : Nat) : Nat := leNat ((bs.drop off).take len)

/-! ### The submission record -/

/-- R196: the submission record in 64 bytes of host memory. -/
def SubRecord.decode (bs : List Byte) : SubRecord :=
  { op := BitVec.ofNat 8 (field bs 0 1)
    flags := BitVec.ofNat 8 (field bs 1 1)
    tag := BitVec.ofNat 16 (field bs 2 2)
    length := BitVec.ofNat 32 (field bs 4 4)
    hostAddr := BitVec.ofNat 64 (field bs 8 8)
    primaryWindow := BitVec.ofNat 8 (field bs 16 1)
    secondaryWindow := BitVec.ofNat 8 (field bs 17 1)
    reservedLow := BitVec.ofNat 16 (field bs 18 2)
    primaryOffset := BitVec.ofNat 32 (field bs 20 4)
    secondaryOffset := BitVec.ofNat 32 (field bs 24 4)
    pattern := BitVec.ofNat 64 (field bs 28 8)
    reservedHigh := BitVec.ofNat 224 (field bs 36 28) }

/-- R196: the 64 bytes of a submission record. -/
def SubRecord.encode (r : SubRecord) : List Byte :=
  leBytes 1 r.op.toNat ++ leBytes 1 r.flags.toNat ++ leBytes 2 r.tag.toNat ++ leBytes 4 r.length.toNat
    ++ leBytes 8 r.hostAddr.toNat ++ leBytes 1 r.primaryWindow.toNat ++ leBytes 1 r.secondaryWindow.toNat
    ++ leBytes 2 r.reservedLow.toNat ++ leBytes 4 r.primaryOffset.toNat ++ leBytes 4 r.secondaryOffset.toNat
    ++ leBytes 8 r.pattern.toNat ++ leBytes 28 r.reservedHigh.toNat

/-- CONT: flag bit 0 (R196). -/
def SubRecord.cont (r : SubRecord) : Bool := r.flags.getLsbD 0

/-- BARRIER: flag bit 1 (R196). -/
def SubRecord.barrierFlag (r : SubRecord) : Bool := r.flags.getLsbD 1

/-- NOTIFY_NOW: flag bit 2 (R196). -/
def SubRecord.notifyNowFlag (r : SubRecord) : Bool := r.flags.getLsbD 2

/-! ### The administrative command -/

/-- Some byte of the command outside byte 0, the tag and the named places (offset, length) is not zero (R198). -/
def reservedSet (bs : List Byte) (named : List (Nat × Nat)) : Bool :=
  (List.range 64).any fun i =>
    !(((0, 1) :: (2, 2) :: named).any fun p => decide (p.1 ≤ i) && decide (i < p.1 + p.2)) && (field bs i 1 != 0)

/-- R198: the command in 64 bytes of the admin submission ring. -/
def decodeCommand (bs : List Byte) : Instr :=
  let tag : Tag := BitVec.ofNat 16 (field bs 2 2)
  let b (i : Nat) : BitVec 8 := BitVec.ofNat 8 (field bs i 1)
  let q (i : Nat) : BitVec 64 := BitVec.ofNat 64 (field bs i 8)
  match field bs 0 1 with
  | 0x01 => .partitionOpen tag (reservedSet bs [(4, 6), (16, 16)]) (b 4) (b 5) (b 6) (b 7) (b 8) (b 9) (q 16) (q 24)
  | 0x02 => .partitionQuiesce tag (reservedSet bs [(4, 1)]) (b 4)
  | 0x03 => .partitionResume tag (reservedSet bs [(4, 1)]) (b 4)
  | 0x04 => .partitionClose tag (reservedSet bs [(4, 1)]) (b 4)
  | 0x05 => .reportCounters tag (reservedSet bs [(4, 2), (8, 8)]) (b 4) (b 5) (q 8)
  | 0x06 => .dispositionSet tag (reservedSet bs [(4, 3)]) (b 4) (b 5) (b 6)
  | 0x10 => .windowOpen tag (reservedSet bs [(4, 3), (8, 16)]) (b 4) (b 5) (b 6) (q 8) (q 16)
  | 0x11 => .windowLock tag (reservedSet bs [(4, 1)]) (b 4)
  | 0x12 => .windowClose tag (reservedSet bs [(4, 1)]) (b 4)
  | 0x18 => .fenceSet tag (reservedSet bs [(4, 1), (8, 16)]) (b 4) (q 8) (q 16)
  | 0x19 => .fenceClear tag (reservedSet bs [(4, 1)]) (b 4)
  | 0x1A => .fenceLock tag (reservedSet bs [])
  | 0x20 => .poolSet tag (reservedSet bs [(4, 3)]) (b 4) (b 5) (b 6)
  | 0x21 => .poolWatermark tag (reservedSet bs [(4, 1)]) (b 4)
  | 0x28 => .vectorSet tag (reservedSet bs [(4, 4), (8, 12)]) (b 4) (b 5) (b 6) (b 7) (q 8) (BitVec.ofNat 32 (field bs 16 4))
  | 0x30 => .eventRingSet tag (reservedSet bs [(4, 2), (8, 8)]) (BitVec.ofNat 16 (field bs 4 2)) (q 8)
  | 0x38 => .linkSet tag (reservedSet bs [(4, 2)]) (BitVec.ofNat 16 (field bs 4 2))
  | op => .unknownOpcode (BitVec.ofNat 8 op) tag

/-- The 64 bytes of a command: opcode, byte 1, tag, and the parameter bytes from byte 4 on, filled up with
zeros. -/
def commandBytes (opcode : Nat) (tag : Tag) (params : List Byte) : List Byte :=
  leBytes 1 opcode ++ leBytes 1 0 ++ leBytes 2 tag.toNat ++ params ++ List.replicate (60 - params.length) 0

/-- R198: the bytes of an administrative command whose reserved bytes are zero; none for the other rows. -/
def encodeCommand : Instr → Option (List Byte)
  | .partitionOpen tag false p sl cl d r l sb cb =>
    some (commandBytes 0x01 tag ([p, sl, cl, d, r, l] ++ List.replicate 6 0 ++ leBytes 8 sb.toNat ++ leBytes 8 cb.toNat))
  | .partitionQuiesce tag false p => some (commandBytes 0x02 tag [p])
  | .partitionResume tag false p => some (commandBytes 0x03 tag [p])
  | .partitionClose tag false p => some (commandBytes 0x04 tag [p])
  | .reportCounters tag false p c a => some (commandBytes 0x05 tag ([p, c, 0, 0] ++ leBytes 8 a.toNat))
  | .dispositionSet tag false p c d => some (commandBytes 0x06 tag [p, c, d])
  | .windowOpen tag false w o a b l =>
    some (commandBytes 0x10 tag ([w, o, a, 0] ++ leBytes 8 b.toNat ++ leBytes 8 l.toNat))
  | .windowLock tag false w => some (commandBytes 0x11 tag [w])
  | .windowClose tag false w => some (commandBytes 0x12 tag [w])
  | .fenceSet tag false f b l => some (commandBytes 0x18 tag ([f, 0, 0, 0] ++ leBytes 8 b.toNat ++ leBytes 8 l.toNat))
  | .fenceClear tag false f => some (commandBytes 0x19 tag [f])
  | .fenceLock tag false => some (commandBytes 0x1A tag [])
  | .poolSet tag false p r l => some (commandBytes 0x20 tag [p, r, l])
  | .poolWatermark tag false w => some (commandBytes 0x21 tag [w])
  | .vectorSet tag false v e n h a d =>
    some (commandBytes 0x28 tag ([v, e, n, h] ++ leBytes 8 a.toNat ++ leBytes 4 d.toNat))
  | .eventRingSet tag false s b => some (commandBytes 0x30 tag (leBytes 2 s.toNat ++ [0, 0] ++ leBytes 8 b.toNat))
  | .linkSet tag false t => some (commandBytes 0x38 tag (leBytes 2 t.toNat))
  | .unknownOpcode op tag => some (commandBytes op.toNat tag [])
  | _ => none

/-! ### Register writes -/

/-- R183, R188: a write of `v` to NOTIFY: index in bits 15:0, selector in bits 23:16, the rest ignored. -/
def decodeNotify (v : BitVec 32) : Instr :=
  let index : BitVec 16 := v.setWidth 16
  let selector : BitVec 8 := v.extractLsb' 16 8
  let n := selector.toNat
  match asNum 16 n, asNum 16 (n - 16) with
  | some p, _ => .notifySqTail p index
  | none, some p => .notifyCqHead p index
  | none, none =>
    match n with
    | 32 => .notifyAdminSqTail index
    | 33 => .notifyAdminCqHead index
    | 34 => .notifyEventRingHead index
    | _ => .notifyBadSelector selector index

/-- R183, R185: a write of `v` to CONTROL: ENABLE in bit 0, FUNCTION_RESET in bit 1, the rest ignored. -/
def decodeControl (v : BitVec 32) : Instr :=
  if v.getLsbD 1 then .functionReset (v.getLsbD 0) else if v.getLsbD 0 then .enableAttempt else .stop

/-- R183, R184, R187, section 10.2: the command of a write of `width` bytes at an offset of the register window, with
the written value; none for an access to a writable register in a width that the manual gives no meaning
(notes/assumptions/19.md). -/
def decodeRegisterWrite (offset : BitVec 12) (width : Nat) (value : BitVec 64) : Option Instr :=
  let low : BitVec 32 := value.setWidth 32
  if width = 0 ∨ 8 < width then none
  else if ignoredWrite offset.toNat width then some (.registerWriteIgnored offset width value)
  else match width, offset.toNat with
    | 4, 0x004 => some (decodeControl low)
    | 4, 0x010 => some (.adminSqBaseWrite (.low low))
    | 4, 0x014 => some (.adminSqBaseWrite (.high low))
    | 8, 0x010 => some (.adminSqBaseWrite (.full value))
    | 4, 0x018 => some (.adminCqBaseWrite (.low low))
    | 4, 0x01C => some (.adminCqBaseWrite (.high low))
    | 8, 0x018 => some (.adminCqBaseWrite (.full value))
    | 4, 0x020 => some (.adminSizesWrite low)
    | 4, 0x040 | 8, 0x040 => some (decodeNotify low)
    | _, _ => none

/-! ### The table's words -/

/-- No row of spec/opcode_table.json gives bits, so no word spells a command. -/
def decodeTableWord (_nbits _w : Nat) : Option Instr := none

end Sys2Proof
end

