-- ==== Sys2Proof/Config.lean ====
section
/-! DEFINITION. The fixed capacities of the CN-416 (00_scope.md, Capacities and parameters) and the model's
free values: constants with no body, which stand for the choices the manual leaves open. -/

namespace Sys2Proof.Config

/-- Bytes of a full chunk (R79). -/
def chunkSize : Nat := 2048

/-- Chunk contexts of one slot (R80). -/
def chunkContexts : Nat := 4

/-- Members of a group at most (R62). -/
def groupLimit : Nat := 16

/-- Longest transfer in bytes (R70). -/
def maxTransfer : Nat := 16777216

/-- Granularity of windows, fences and ring bases (R7, R25, R34). -/
def pageSize : Nat := 4096

/-- Bound on the sum of all reserves (R104). -/
def reserveSum : Nat := 96

/-- Non-FREE windows one partition may own (R7). -/
def windowAllowance : Nat := 16

/-- Host read requests cover at most this many bytes (R176). -/
def readCut : Nat := 512

/-- Writes of chunk data on the link cover at most this many bytes (R181). -/
def writeCut : Nat := 256

/-- Data places of the write store (R181). -/
def dataPlaces : Nat := 64

/-- The host read timeout after reset, in ms (R180). -/
def defaultTimeout : Nat := 32

/-- The watermark after reset (R117). -/
def defaultWatermark : Nat := 8

/-- The lost count saturates here (R153). -/
def lostMax : Nat := 65535

/-- The card address space: no strap setting gives a card address at or above it (R1). -/
def cardSpace : Nat := 4294967296

/-- Bound on the inner events one step can hold. No reachable step comes near it
(DEDUCED, notes/assumptions/12.md). -/
def innerBound : Nat := 16384

/-- FREE VALUE. Which of a slot's chunk start and its chunk's turn is taken first, at the `n`th draw: the manual says
"may be taken in either order" (R82 with R88). Nothing constrains it (DESIGN CHOICE, notes/assumptions/10.md). -/
opaque takenFirst : Nat → Bool

/-- FREE VALUE. The rank in which the card accesses outstanding on one word, and the scrub, come to it, at the `n`th
draw: "either may reach the word first" (R2). Nothing constrains it (DESIGN CHOICE, notes/assumptions/10.md). -/
opaque cardRank : Nat → Nat → Nat

/-- FREE VALUE. Whether the merge read of a write that comes to a word of its range before the step of its
acknowledge finds an uncorrectable error there (R4). Nothing constrains it (DESIGN CHOICE, notes/assumptions/15.md). -/
opaque mergeFails : Nat → Nat → Bool

/-- FREE VALUE. How many words the scrub has gone on by, at the `n`th draw: the manual gives it no pace (R5). Nothing
constrains it (DESIGN CHOICE, notes/assumptions/16.md). -/
opaque scrubPace : Nat → Nat

/-- FREE VALUE. The rank in which the slots of one abort round take their abort requests: the manual gives
no order among them (R39, R46, R52). Nothing constrains it (DESIGN CHOICE, notes/assumptions/10.md). -/
opaque abortRank : Nat → Nat → Nat

end Sys2Proof.Config
end

