-- ==== Sys2Proof/Machine/State.lean ====
section
/-! DEFINITION. The state of the CN-416 as plain data: every block's registers, tables, queues and pins, the
queue of waiting commands, and the state after power-on reset. -/

namespace Sys2Proof.Machine

/-! ### Faults and refusals -/

/-- Why a step stops. -/
inductive Fault where
  /-- Raised by the end of a card access (CARD_READ_DATA_RETURN, CARD_WRITE_ACKNOWLEDGE) whose range leaves the
  4 GiB card address space of R1: the manual gives no card memory there. No reachable state holds such an access
  (R16). Safe: the machine stops where the part is never asked to go on. -/
  | cardSpace
  deriving DecidableEq, Repr

/-- Why a command is turned away without a meaning. -/
inductive Refusal where
  /-- Raised by exec's arm of a command that has no meaning yet; no arm of this model does. Safe. -/
  | notModelled (mnemonic : String)
  deriving DecidableEq, Repr

/-! ### Device and register file (chapter 10) -/

/-- Device states (section 10.3). -/
inductive DeviceState where
  | init | ready | running | stopping | halted
  deriving DecidableEq, Repr

/-- Halt causes (R186, R192). -/
inductive HaltCause where
  | windowTable | slotMemory | partitionTable
  deriving DecidableEq, Repr

/-- Device state, strap, the writable registers and the flags of STATUS. -/
structure Device where
  st : DeviceState
  /-- The strap setting sampled last (R1). -/
  strap : BitVec 2
  adminSqBase : HostAddr
  adminCqBase : HostAddr
  adminSizes : BitVec 32
  configError : Bool
  notifyRejected : Bool
  haltCause : Option HaltCause
  /-- What the last register read returned to the host (the model's own output port). -/
  readData : BitVec 32
  deriving DecidableEq, Repr

/-! ### Card memory (section 1.1) -/

/-- A card access that the Card Memory Controller has taken and not yet ended (R2). `owner` is the slot and
chunk that its end is returned to, absent once a reset has freed the slot (R100). `write` holds a write's bytes
and is absent for a read. `reached` lists the 8-byte words a write has already been carried out on; `seen` holds
the words a read has already taken, each with its eight bytes and whether it carried the uncorrectable mark. -/
structure CardOp where
  id : Nat
  owner : Option (SNum × Nat)
  base : Nat
  len : Nat
  write : Option (List Byte)
  reached : List Nat
  seen : List (Nat × List Byte × Bool)
  deriving DecidableEq, Repr

/-- The Card Memory Controller and the memory behind it. -/
structure Card where
  /-- Card memory: rising addresses, no entry equal to zero. -/
  mem : List Host.Cell
  /-- Word numbers that carry the uncorrectable mark (R4), rising. -/
  marks : List Nat
  ops : List CardOp
  /-- The power-on scrub (R5): the next word it writes while it runs, and none when no scrub runs. -/
  scrub : Option Nat
  /-- The name the next access gets (the model's own). -/
  nextOp : Nat
  deriving DecidableEq, Repr

/-! ### Windows (chapter 1) -/

inductive WindowState where
  | free | opened | locked | retiring
  deriving DecidableEq, Repr

inductive Access where
  | read | write | readWrite
  deriving DecidableEq, Repr

/-- A window table entry (R6). `parityOk`: the entry agrees with its parity code. -/
structure Window where
  st : WindowState
  owner : Option PNum
  cardBase : Nat
  length : Nat
  access : Access
  refs : Nat
  closeTag : Option Tag
  parityOk : Bool
  deriving DecidableEq, Repr

/-! ### Fences (chapter 2) -/

inductive FenceState where
  | empty | setting | active
  deriving DecidableEq, Repr

/-- A fence list entry (R20). -/
structure Fence where
  st : FenceState
  cardBase : Nat
  length : Nat
  outstanding : Option Nat
  setTag : Option Tag
  deriving DecidableEq, Repr

/-- An access record (R21); `id` names the card access it stands for. -/
structure AccessRecord where
  id : Nat
  slot : SNum
  chunk : Nat
  base : Nat
  len : Nat
  countedBy : List FNum
  deriving DecidableEq, Repr

structure FenceUnit where
  entries : Vector Fence 8
  locked : Bool
  records : List AccessRecord
  deriving DecidableEq, Repr

/-! ### Partitions (chapter 3) -/

inductive PartState where
  | closed | opened | quiescing | quiesced | faulted | closing
  deriving DecidableEq, Repr

/-- Causes of a partition fault (R45). -/
inductive FaultCause where
  | fetchError | sqIndex | cqIndex | haltDisposition
  deriving DecidableEq, Repr

inductive Disposition where
  | report | reportEvent | halt
  deriving DecidableEq, Repr

/-- Error classes (R141). -/
inductive ErrorClass where
  | window | fenced | hostRead | cardEcc | malformed
  deriving DecidableEq, Repr

/-- One disposition for each error class (R143). -/
structure Dispositions where
  window : Disposition
  fenced : Disposition
  hostRead : Disposition
  cardEcc : Disposition
  malformed : Disposition
  deriving DecidableEq, Repr

/-- A partition table entry (R32). -/
structure Partition where
  st : PartState
  sqBase : HostAddr
  sqSize : Nat
  sqHead : Nat
  sqTail : Nat
  cqBase : HostAddr
  cqSize : Nat
  cqTail : Nat
  cqHead : Nat
  cqPass : Bool
  cqReserved : Nat
  depth : Nat
  slotsHeld : Nat
  reserve : Nat
  limit : Nat
  held : Nat
  dispositions : Dispositions
  groupsOk : BitVec 32
  groupsFailed : BitVec 32
  bytesMoved : BitVec 64
  bufferWaits : BitVec 32
  faultCause : Option FaultCause
  pendingTag : Option Tag
  parityOk : Bool
  deriving DecidableEq, Repr

/-! ### Fetch Scheduler (section 4.2) -/

/-- A partition's assembling record (R55). -/
structure Assembling where
  slot : SNum
  membersRead : Nat
  readOutstanding : Bool
  deriving DecidableEq, Repr

structure Scheduler where
  pointer : PNum
  assembling : Vector (Option Assembling) 16
  deriving DecidableEq, Repr

/-! ### Transfer slots (chapter 5) -/

inductive SlotState where
  | free | assembling | waitOrder | running | waitBuffer | draining | posting
  deriving DecidableEq, Repr

inductive AbortDetail where
  | partitionFault | partitionClose | stop
  deriving DecidableEq, Repr

/-- Statuses of a completion record (R121). -/
inductive Status where
  | ok | window | fenced | hostRead | cardEcc | malformed | aborted
  deriving DecidableEq, Repr

/-- The group's outcome: status, detail code and failed member (R74). -/
structure Verdict where
  status : Status
  detail : Nat
  failedMember : Nat
  deriving DecidableEq, Repr

/-- A translated card range (R16). -/
structure CardRange where
  base : Nat
  len : Nat
  deriving DecidableEq, Repr

/-- The member context (R79). `doneAhead` lists the chunks that count as done above the run of `doneChunks`
(R89). `refs` lists the windows the member holds references on, one entry for each operand (R15). -/
structure MemberCtx where
  primary : Option CardRange
  secondary : Option CardRange
  refs : List WNum
  count : Nat
  next : Nat
  doneChunks : Nat
  doneAhead : List Nat
  crc : BitVec 32
  deriving DecidableEq, Repr

inductive Phase where
  | reading | held | writing
  deriving DecidableEq, Repr

/-- A chunk context (R80). -/
structure ChunkCtx where
  chunk : Nat
  size : Nat
  phase : Phase
  buffer : Option BNum
  requests : Nat
  part : Option (BitVec 32)
  discard : Bool
  deriving DecidableEq, Repr

/-- A transfer slot record (R74). `errorDue`: the group was handed to the error path and its step has not been
taken; `posted`: its completion write has been issued or its record discarded (R98). -/
structure Slot where
  st : SlotState
  partition : PNum
  firstIndex : Nat
  members : List SubRecord
  barrier : Bool
  notifyNow : Bool
  current : Nat
  bytesDone : Nat
  verdict : Option Verdict
  digest : Option (BitVec 32)
  abort : Option AbortDetail
  ctx : Option MemberCtx
  chunks : List ChunkCtx
  errorDue : Bool
  posted : Bool
  parityOk : Bool
  deriving DecidableEq, Repr

/-! ### Staging buffer pool (chapter 6) -/

/-- A staging buffer: the slot it is granted to, if any, and its 2048 bytes (R102). -/
structure Buffer where
  owner : Option SNum
  data : List Byte
  deriving DecidableEq, Repr

structure Pool where
  buffers : Vector Buffer 128
  /-- Count of free buffers (R103). -/
  free : Nat
  /-- The waiting list, oldest first (R108). -/
  waiting : List (SNum × PNum)
  pointer : PNum
  watermark : Nat
  /-- The watermark state: LOW when true (R117). -/
  low : Bool
  deriving DecidableEq, Repr

/-! ### Completion Poster, Message Unit, Event Poster (chapters 7 and 8) -/

/-- The admin completion ring's producer index and pass marker (R140). -/
structure Poster where
  index : Nat
  pass : Bool
  deriving DecidableEq, Repr

inductive VectorState where
  | quiet | gathering | announced
  deriving DecidableEq, Repr

/-- A vector (R130). `timer` is the time left in µs while the holdoff timer runs. -/
structure MsgVector where
  enable : Bool
  threshold : Nat
  holdoff : Nat
  address : HostAddr
  data : BitVec 32
  st : VectorState
  u : Nat
  urgent : Bool
  timer : Option Nat
  deriving DecidableEq, Repr

/-- The event ring (R150). -/
structure EventRing where
  configured : Bool
  base : HostAddr
  size : Nat
  tail : Nat
  head : Nat
  pass : Bool
  lost : Nat
  deriving DecidableEq, Repr

/-! ### Admin Engine (chapter 9) -/

inductive ChannelFault where
  | fetchError | sqIndex | cqIndex
  deriving DecidableEq, Repr

/-- Statuses of an admin completion (R166). -/
inductive AdminStatus where
  | ok | unknownOpcode | badParam | state | locked | overlap | limit | poolBusy | inUse | deferFull
  | cancelled | superseded | faulted
  deriving DecidableEq, Repr

/-- The commands that may defer (R167). -/
inductive DeferOp where
  | windowClose | fenceSet | partitionQuiesce | partitionClose
  deriving DecidableEq, Repr

/-- A deferred command table entry (R167). `post`: the answer is POST. `report` holds a report taken in HALTED
(R168). -/
structure Deferred where
  op : DeferOp
  tag : Tag
  object : Nat
  post : Bool
  report : Option AdminStatus
  deriving DecidableEq, Repr

/-- The administrative channel (R159). -/
structure Admin where
  /-- FAULTED when true. -/
  faulted : Bool
  faultCause : Option ChannelFault
  sqBase : HostAddr
  cqBase : HostAddr
  sqSize : Nat
  cqSize : Nat
  sqHead : Nat
  sqTail : Nat
  cqHead : Nat
  reserved : Nat
  readOutstanding : Bool
  deferred : Vector (Option Deferred) 8
  deriving DecidableEq, Repr

/-! ### Host Link Unit (section 10.1) -/

/-- Who asked for a host read. `orphan`: a record read whose slot allocation has ended (R64). -/
inductive Requester where
  | record (slot : SNum)
  | admin
  | copyIn (slot : SNum) (chunk : Nat)
  | orphan
  deriving DecidableEq, Repr

/-- A host read request (R176). `place` is where its data go in the requester's chunk. -/
structure ReadRequest where
  requester : Requester
  addr : HostAddr
  len : Nat
  place : Nat
  deriving DecidableEq, Repr

/-- A read tag (R177). While BUSY: the request, the bytes that have arrived, the time left on its timer and the
timeout it was issued with; while QUARANTINED: the time left. Times in µs. -/
inductive TagState where
  | free
  | busy (req : ReadRequest) (got : List (Option Byte)) (left limit : Nat)
  | quarantined (left : Nat)
  deriving DecidableEq, Repr

/-- What a posted write carries. -/
inductive WriteKind where
  | completion (slot : SNum)
  | adminCompletion
  | counterReport
  | event
  | message (v : VNum)
  | data
  deriving DecidableEq, Repr

/-- A posted write of the write store; a `data` write holds what is left of its chunk (R181). -/
structure PostedWrite where
  kind : WriteKind
  addr : HostAddr
  bytes : List Byte
  deriving DecidableEq, Repr

/-- What the part last placed on the link (the model's own output port). -/
inductive LinkOut where
  | write (addr : HostAddr) (bytes : List Byte)
  | read (tag : TNum) (addr : HostAddr) (len : Nat)
  deriving DecidableEq, Repr

structure Link where
  queue : List ReadRequest
  tags : Vector TagState 64
  /-- The write store in generation order (R181). -/
  store : List PostedWrite
  /-- Slots whose COPY_OUT chunk in turn waits for a data place, in the order their turns came (R181). -/
  placeWaiters : List SNum
  /-- The host read timeout in ms (R180). -/
  timeout : Nat
  out : Option LinkOut
  deriving DecidableEq, Repr

/-! ### The machine -/

/-- The whole state, block by block, and the queue of waiting commands, first in, first out. -/
structure State where
  device : Device
  card : Card
  windows : Vector Window 64
  fences : FenceUnit
  parts : Vector Partition 16
  sched : Scheduler
  slots : Vector Slot 32
  pool : Pool
  poster : Poster
  vectors : Vector MsgVector 18
  events : EventRing
  admin : Admin
  link : Link
  /-- Counts the meetings decided by Config's free values (the model's own). -/
  draws : Nat
  pending : List Instr
  deriving DecidableEq, Repr

/-! ### Reset values of the entries -/

/-- A FREE window (R6). The fields that are absent in FREE hold placeholders (notes/assumptions/4.md). -/
def Window.free : Window :=
  { st := .free, owner := none, cardBase := 0, length := 0, access := .read, refs := 0, closeTag := none, parityOk := true }

/-- An EMPTY fence (R20). -/
def Fence.empty : Fence := { st := .empty, cardBase := 0, length := 0, outstanding := none, setTag := none }

/-- The default dispositions (R35, R143). -/
def Dispositions.default : Dispositions :=
  { window := .reportEvent, fenced := .reportEvent, hostRead := .report, cardEcc := .reportEvent, malformed := .report }

/-- A partition entry after reset (R32). The fields that R32 gives no reset value for hold zero (DESIGN CHOICE,
notes/assumptions/4.md). -/
def Partition.reset : Partition :=
  { st := .closed, sqBase := 0, sqSize := 0, sqHead := 0, sqTail := 0, cqBase := 0, cqSize := 0, cqTail := 0, cqHead := 0,
    cqPass := false, cqReserved := 0, depth := 0, slotsHeld := 0, reserve := 0, limit := 0, held := 0,
    dispositions := Dispositions.default, groupsOk := 0, groupsFailed := 0, bytesMoved := 0, bufferWaits := 0,
    faultCause := none, pendingTag := none, parityOk := true }

/-- A FREE slot (R74). The fields that are absent in FREE hold placeholders (notes/assumptions/4.md). -/
def Slot.free : Slot :=
  { st := .free, partition := 0, firstIndex := 0, members := [], barrier := false, notifyNow := false, current := 0,
    bytesDone := 0, verdict := none, digest := none, abort := none, ctx := none, chunks := [], errorDue := false,
    posted := false, parityOk := true }

/-- A vector after reset (R130). -/
def MsgVector.reset : MsgVector :=
  { enable := false, threshold := 1, holdoff := 0, address := 0, data := 0, st := .quiet, u := 0, urgent := false, timer := none }

/-- The event ring after reset (R150). -/
def EventRing.reset : EventRing :=
  { configured := false, base := 0, size := 0, tail := 0, head := 0, pass := true, lost := 0 }

/-- The admin channel after reset (R159). -/
def Admin.reset : Admin :=
  { faulted := false, faultCause := none, sqBase := 0, cqBase := 0, sqSize := 0, cqSize := 0, sqHead := 0, sqTail := 0,
    cqHead := 0, reserved := 0, readOutstanding := false, deferred := Vector.replicate 8 none }

/-- The Fetch Scheduler after reset (R55). -/
def Scheduler.reset : Scheduler := { pointer := 15, assembling := Vector.replicate 16 none }

/-- The pool after power-on reset (R119); the contents of the buffers are the model's choice
(DESIGN CHOICE, notes/assumptions/4.md). -/
def Pool.reset : Pool :=
  { buffers := Vector.replicate 128 { owner := none, data := List.replicate 2048 0 }, free := 128, waiting := [],
    pointer := 15, watermark := Config.defaultWatermark, low := false }

/-- The Host Link Unit after power-on reset (R182). -/
def Link.reset : Link :=
  { queue := [], tags := Vector.replicate 64 .free, store := [], placeWaiters := [], timeout := Config.defaultTimeout,
    out := none }

/-- The machine right after power-on reset: INIT, with the scrub of card memory running (R5, R189). The strap
setting is the model's choice (DESIGN CHOICE, notes/assumptions/4.md), and so are the bytes of card memory before the
scrub and that no word carries the uncorrectable mark then (DESIGN CHOICE, notes/assumptions/3.md). -/
def State.reset : State :=
  { device := { st := .init, strap := 0, adminSqBase := 0, adminCqBase := 0, adminSizes := 0, configError := false,
                notifyRejected := false, haltCause := none, readData := 0 }
    card := { mem := [], marks := [], ops := [], scrub := some 0, nextOp := 0 }
    windows := Vector.replicate 64 Window.free
    fences := { entries := Vector.replicate 8 Fence.empty, locked := false, records := [] }
    parts := Vector.replicate 16 Partition.reset
    sched := Scheduler.reset
    slots := Vector.replicate 32 Slot.free
    pool := Pool.reset
    poster := { index := 0, pass := true }
    vectors := Vector.replicate 18 MsgVector.reset
    events := EventRing.reset
    admin := Admin.reset
    link := Link.reset
    draws := 0
    pending := [] }

end Sys2Proof.Machine
end

