-- ==== Sys2Proof/Machine/Ops.lean ====
section
/-! DEFINITION. The named operations by which every meaning reads and changes the state: one entry of a table at
a time, one block at a time; ring arithmetic; entering HALTED; and the draws of the free values. -/

namespace Sys2Proof.Machine

/-! ### Reading entries -/

def State.window (s : State) (w : WNum) : Window := look s.windows w
def State.fence (s : State) (f : FNum) : Fence := look s.fences.entries f
def State.part (s : State) (p : PNum) : Partition := look s.parts p
def State.slot (s : State) (i : SNum) : Slot := look s.slots i
def State.vector (s : State) (v : VNum) : MsgVector := look s.vectors v
def State.buffer (s : State) (b : BNum) : Buffer := look s.pool.buffers b
def State.tag (s : State) (t : TNum) : TagState := look s.link.tags t
def State.assembling (s : State) (p : PNum) : Option Assembling := look s.sched.assembling p

/-! ### Changing blocks and entries -/

def State.withDevice (s : State) (f : Device → Device) : State := { s with device := f s.device }
def State.withCard (s : State) (f : Card → Card) : State := { s with card := f s.card }
def State.withFences (s : State) (f : FenceUnit → FenceUnit) : State := { s with fences := f s.fences }
def State.withSched (s : State) (f : Scheduler → Scheduler) : State := { s with sched := f s.sched }
def State.withPool (s : State) (f : Pool → Pool) : State := { s with pool := f s.pool }
def State.withPoster (s : State) (f : Poster → Poster) : State := { s with poster := f s.poster }
def State.withEvents (s : State) (f : EventRing → EventRing) : State := { s with events := f s.events }
def State.withAdmin (s : State) (f : Admin → Admin) : State := { s with admin := f s.admin }
def State.withLink (s : State) (f : Link → Link) : State := { s with link := f s.link }
def State.withWindow (s : State) (w : WNum) (f : Window → Window) : State := { s with windows := upd s.windows w f }
def State.withPart (s : State) (p : PNum) (f : Partition → Partition) : State := { s with parts := upd s.parts p f }
def State.withSlot (s : State) (i : SNum) (f : Slot → Slot) : State := { s with slots := upd s.slots i f }
def State.withVector (s : State) (v : VNum) (f : MsgVector → MsgVector) : State := { s with vectors := upd s.vectors v f }
def State.withFence (s : State) (n : FNum) (f : Fence → Fence) : State :=
  s.withFences fun u => { u with entries := upd u.entries n f }
def State.withBuffer (s : State) (b : BNum) (f : Buffer → Buffer) : State :=
  s.withPool fun q => { q with buffers := upd q.buffers b f }
def State.withTag (s : State) (t : TNum) (f : TagState → TagState) : State :=
  s.withLink fun l => { l with tags := upd l.tags t f }
def State.withAssembling (s : State) (p : PNum) (a : Option Assembling) : State :=
  s.withSched fun c => { c with assembling := upd c.assembling p fun _ => a }
def State.withPending (s : State) (q : List Instr) : State := { s with pending := q }

/-! ### Ring arithmetic (00_scope.md, Ring indices) -/

/-- The index after `i` in a ring of `size` entries. -/
def ringNext (i size : Nat) : Nat := (i + 1) % size

/-- (to − from) mod size: the entries from `lo` up to but not including `hi`. -/
def ringSpan (hi lo size : Nat) : Nat := (hi + size - lo % size) % size

/-- R44, R152, R170: a new head `h` is valid when it is in range and consumes no entry beyond the tail. -/
def headValid (new head tail size : Nat) : Bool :=
  decide (new < size) && decide (ringSpan new head size ≤ ringSpan tail head size)

/-- The size is a power of two from `2^lo` to `2^hi`. -/
def sizeBetween (size lo hi : Nat) : Bool :=
  (List.range (hi + 1)).any fun k => decide (lo ≤ k) && decide (size = 2 ^ k)

/-- Two ranges of card addresses share at least one byte (R22). -/
def overlaps (a n b m : Nat) : Bool := decide (a < b + m) && decide (b < a + n)

/-! ### Saturating counters (R49) -/

/-- A 32-bit counter one up, staying at its last value. -/
def countUp (c : BitVec 32) : BitVec 32 := if c = BitVec.allOnes 32 then c else c + 1

/-! ### Occupied slots -/

/-- The slot is in any state other than FREE. -/
def Slot.occupied (x : Slot) : Bool := decide (x.st ≠ .free)

/-- The occupied slots of partition `p`. -/
def State.slotsOf (s : State) (p : PNum) : List SNum :=
  which fun i => (s.slot i).occupied && decide ((s.slot i).partition = p)

/-! ### Device state -/

def State.running (s : State) : Bool := decide (s.device.st = .running)
def State.stopping (s : State) : Bool := decide (s.device.st = .stopping)
def State.halted (s : State) : Bool := decide (s.device.st = .halted)

/-- RUNNING or STOPPING: the states in which the slots work. -/
def State.active (s : State) : Bool := s.running || s.stopping

/-- R188: a rejected NOTIFY write sets NOTIFY_REJECTED and changes nothing else. -/
def State.rejectNotify (s : State) : State := s.withDevice fun d => { d with notifyRejected := true }

/-- R182: at entry to HALTED a BUSY tag is quarantined for the timeout its request was issued with. -/
def TagState.onHalt : TagState → TagState
  | .busy _ _ _ limit => .quarantined limit
  | t => t

/-- R192: a parity error puts the device in HALTED with the halt cause set; the Host Link Unit empties its
queue and quarantines its BUSY tags (R182). -/
def State.enterHalted (s : State) (c : HaltCause) : State :=
  (s.withDevice fun d => { d with st := .halted, haltCause := some c }).withLink fun l =>
    { l with queue := [], tags := mapTab (fun _ t => t.onHalt) l.tags }

/-- The first parity error among reads of slots, windows and partitions, in that order (R6, R32, R74; the order is a
DESIGN CHOICE, notes/assumptions/13.md). -/
def State.parityError (s : State) (slots : List SNum) (windows : List WNum) (parts : List PNum) : Option HaltCause :=
  if slots.any fun i => !(s.slot i).parityOk then some .slotMemory
  else if windows.any fun w => !(s.window w).parityOk then some .windowTable
  else if parts.any fun p => !(s.part p).parityOk then some .partitionTable
  else none

/-! ### Free values -/

/-- The meeting of two events that may be taken in either order: which is taken first, and the count moved on. -/
def State.drawFirst (s : State) : Bool := Config.takenFirst s.draws

def State.drawn (s : State) : State := { s with draws := s.draws + 1 }

/-- The slots in the order in which they take the aborts of one round. -/
def State.abortOrder (s : State) (l : List SNum) : List SNum := sortBy (fun i => Config.abortRank s.draws i.val) l

end Sys2Proof.Machine
end

