-- ==== Sys2Proof/Machine/Crc.lean ====
section
/-! DEFINITION. The DIGEST computation (R99): the CRC register, a chunk's partial value, and its entry into the
register in chunk order. -/

namespace Sys2Proof.Machine

/-- The generator polynomial in reflected form (R99). -/
def crcPoly : BitVec 32 := 0xEDB88320

/-- One right shift; the bit shifted out combines with the polynomial. -/
def crcShift (r : BitVec 32) : BitVec 32 := if r.getLsbD 0 then (r >>> 1) ^^^ crcPoly else r >>> 1

/-- A byte enters the register (R99). -/
def crcByte (r : BitVec 32) (b : Byte) : BitVec 32 :=
  crcShift (crcShift (crcShift (crcShift (crcShift (crcShift (crcShift (crcShift (r ^^^ b.setWidth 32))))))))

/-- The bytes of a range enter the register one by one (R99). -/
def crcBytes (r : BitVec 32) (bs : List Byte) : BitVec 32 := bs.foldl crcByte r

/-- A chunk's partial value: what its bytes contribute to the register whatever it held before (R87, R99). -/
def crcPart (bs : List Byte) : BitVec 32 := crcBytes 0 bs

/-- A partial value of a chunk of `size` bytes enters the register (R87): the register moved on by as many
bytes, combined with the chunk's contribution. -/
def crcEnter (r : BitVec 32) (size : Nat) (part : BitVec 32) : BitVec 32 :=
  crcBytes r (List.replicate size 0) ^^^ part

/-- The final step (R99). -/
def crcFinal (r : BitVec 32) : BitVec 32 := r ^^^ BitVec.allOnes 32

end Sys2Proof.Machine
end

