-- ==== Sys2Proof/Machine/CardMemory.lean ====
section
/-! DEFINITION. Card memory and the Card Memory Controller (R1 to R5): bytes in one canonical form, the
uncorrectable marks, the accesses in progress and the words they reach. -/

namespace Sys2Proof.Machine

/-- Every byte that nothing lists reads as zero: the scrub writes zero everywhere (R5; DESIGN CHOICE before the
scrub has ended, notes/assumptions/3.md). -/
def unlistedByte : Byte := 0

/-! ### Bytes -/

/-- The byte at card address `a`. -/
def readByte : List Host.Cell → Nat → Byte
  | [], _ => unlistedByte
  | (k, v) :: rest, a => if k = a then v else readByte rest a

/-- Card memory with byte `b` at address `a`; a byte equal to what an unlisted address reads as is not listed. -/
def writeByte : List Host.Cell → Nat → Byte → List Host.Cell
  | [], a, b => if b = unlistedByte then [] else [(a, b)]
  | (k, v) :: rest, a, b =>
    if a < k then (if b = unlistedByte then (k, v) :: rest else (a, b) :: (k, v) :: rest)
    else if a = k then (if b = unlistedByte then rest else (a, b) :: rest)
    else (k, v) :: writeByte rest a b

/-- The addresses rise strictly from above `low` and no entry equals what an unlisted address reads as. -/
def wfAbove : Option Nat → List Host.Cell → Bool
  | _, [] => true
  | low, (k, v) :: rest =>
    (match low with | none => true | some l => decide (l < k)) && decide (v ≠ unlistedByte) && wfAbove (some k) rest

/-- The canonical form of card memory. -/
def Memory.wf (m : List Host.Cell) : Bool := wfAbove none m

/-- `len` bytes from address `a`. -/
def readBytes (m : List Host.Cell) (a : Nat) : Nat → List Byte
  | 0 => []
  | n + 1 => readByte m a :: readBytes m (a + 1) n

/-! ### Words and marks (R3, R4) -/

/-- The word that holds address `a`. -/
def wordOf (a : Nat) : Nat := a / 8

/-- The words a range touches. -/
def wordsOf (base len : Nat) : List Nat :=
  if len = 0 then [] else List.range' (wordOf base) (wordOf (base + len - 1) - wordOf base + 1)

/-- The range covers the whole of word `w`. -/
def coversWord (base len w : Nat) : Bool := decide (base ≤ 8 * w) && decide (8 * w + 8 ≤ base + len)

/-- `w` put into a rising list of numbers. -/
def markSet : List Nat → Nat → List Nat
  | [], w => [w]
  | x :: rest, w => if w < x then w :: x :: rest else if w = x then x :: rest else x :: markSet rest w

/-- `w` taken out of a list of numbers. -/
def markClear (l : List Nat) (w : Nat) : List Nat := l.filter fun x => decide (x ≠ w)

/-- The bytes of a write that lie in word `w`, stored there. -/
def storeWord (m : List Host.Cell) (base : Nat) (data : List Byte) (w : Nat) : List Host.Cell :=
  (List.range 8).foldl
    (fun m i => match data[8 * w + i - base]? with
      | some b => if base ≤ 8 * w + i then writeByte m (8 * w + i) b else m
      | none => m) m

/-! ### Accesses in progress -/

/-- The access touches word `w`. -/
def CardOp.touches (o : CardOp) (w : Nat) : Bool := (wordsOf o.base o.len).contains w

/-- The access is a write that has not been carried out on word `w` yet. -/
def CardOp.mayReach (o : CardOp) (w : Nat) : Bool := o.write.isSome && o.touches w && !o.reached.contains w

/-- The access is a read that has not taken word `w` yet. -/
def CardOp.mayTake (o : CardOp) (w : Nat) : Bool :=
  o.write.isNone && o.touches w && !(o.seen.any fun x => decide (x.1 = w))

/-- The access touches word `w` and has not come to it yet. -/
def CardOp.mayCome (o : CardOp) (w : Nat) : Bool := o.mayReach w || o.mayTake w

/-- The access named `id`. -/
def Card.find (c : Card) (id : Nat) : Option CardOp := c.ops.find? fun o => decide (o.id = id)

/-- The access named `id` changed by `f`. -/
def Card.change (c : Card) (id : Nat) (f : CardOp → CardOp) : Card :=
  { c with ops := c.ops.map fun o => if o.id = id then f o else o }

/-- Read `id` takes word `w` as it stands: its bytes and whether it carries the mark. -/
def Card.takeWord (c : Card) (id w : Nat) : Card :=
  c.change id fun o => { o with seen := (w, readBytes c.mem (8 * w) 8, c.marks.contains w) :: o.seen }

/-- R2, R4: write `o` is carried out on word `w` as a whole word operation. A write of the whole word removes its mark.
A write of part of it leaves a mark there, and sets one when its merge read finds an uncorrectable error (`bad`). -/
def Card.reachWord (c : Card) (o : CardOp) (w : Nat) (bad : Bool) : Card :=
  { c with
    mem := storeWord c.mem o.base (o.write.getD []) w
    marks := if coversWord o.base o.len w then markClear c.marks w else if bad then markSet c.marks w else c.marks }.change
      o.id fun x => { x with reached := w :: x.reached }

/-- Access `o` comes to word `w`. -/
def Card.come (c : Card) (o : CardOp) (w : Nat) (bad : Bool) : Card :=
  if o.write.isSome then c.reachWord o w bad else c.takeWord o.id w

/-! ### Which access reaches a word first (R2) -/

/-- Another access outstanding on word `w` stands in an order with access `id`: a write does with every access, a read
with writes alone. -/
def Card.contended (c : Card) (id : Nat) (write : Bool) (w : Nat) : Bool :=
  c.ops.any fun o => decide (o.id ≠ id) && (o.mayReach w || (write && o.mayTake w))

/-- The other accesses that come to word `w` before access `id` does, in the order in which they come. The free value
ranks them at each draw, so any of them may come first, in any order (notes/assumptions/10.md). -/
def Card.ahead (c : Card) (id w draws : Nat) : List CardOp :=
  sortBy (fun o => Config.cardRank draws o.id) (c.ops.filter fun o =>
    decide (o.id ≠ id) && o.mayCome w && decide (Config.cardRank draws o.id < Config.cardRank draws id))

/-- R2: what other accesses do to word `w` before access `id` comes to it, with the count of draws. -/
def Card.othersFirst (id : Nat) (write : Bool) (w : Nat) (cd : Card × Nat) : Card × Nat :=
  if cd.1.contended id write w then
    ((cd.1.ahead id w cd.2).foldl (fun c o => c.come o w (Config.mergeFails cd.2 o.id)) cd.1, cd.2 + 1)
  else cd

/-- Access `o` comes to every word of the list that it has not come to; `bad` says where its merge reads fail. -/
def Card.finish (o : CardOp) (bad : Nat → Bool) : List Nat → Card × Nat → Card × Nat
  | [], cd => cd
  | w :: rest, cd =>
    Card.finish o bad rest
      (if o.mayCome w then
        let cd := Card.othersFirst o.id o.write.isSome w cd
        (cd.1.come o w (bad w), cd.2)
      else cd)

/-- The byte that a finished read took at address `a`. -/
def CardOp.takenByte (o : CardOp) (a : Nat) : Byte :=
  match o.seen.find? fun x => decide (x.1 = wordOf a) with
  | some x => (x.2.1[a % 8]?).getD 0
  | none => 0

/-- The data of a finished read. -/
def CardOp.data (o : CardOp) : List Byte := (List.range o.len).map fun i => o.takenByte (o.base + i)

/-- R3: some word the read took carried the uncorrectable mark. -/
def CardOp.marked (o : CardOp) : Bool := o.seen.any fun x => x.2.2

/-- The access named `id` has ended. -/
def Card.drop (c : Card) (id : Nat) : Card := { c with ops := c.ops.filter fun o => decide (o.id ≠ id) }

/-- R2: the access named `id` is taken by the controller. -/
def Card.begin (c : Card) (owner : SNum × Nat) (base len : Nat) (write : Option (List Byte)) : Card :=
  { c with
    ops := c.ops ++ [{ id := c.nextOp, owner := some owner, base, len, write, reached := [], seen := [] }]
    nextOp := c.nextOp + 1 }

/-! ### Size (R1) -/

/-- The card memory size in bytes that a strap setting gives. -/
def strapSize (strap : BitVec 2) : Nat :=
  match strap.toNat with
  | 1 => 2147483648
  | 2 => 4294967296
  | _ => 1073741824

/-- The card memory size in force. -/
def State.cardSize (s : State) : Nat := strapSize s.device.strap

/-! ### The scrub (R5) -/

/-- Zero with a valid code in every word from `p` up to but not including `n`. -/
def Card.zeroed (c : Card) (p n : Nat) : Card :=
  { c with mem := c.mem.filter fun x => !(decide (p ≤ wordOf x.1) && decide (wordOf x.1 < n))
           marks := c.marks.filter fun w => !(decide (p ≤ w) && decide (w < n)) }

/-- The words from `p` up to `n` that an outstanding access touches. -/
def Card.wordsInWay (c : Card) (p n : Nat) : List Nat :=
  ((c.ops.flatMap fun o => wordsOf o.base o.len).filter fun w => decide (p ≤ w) && decide (w < n)).dedup

/-- R5, R2: the scrub writes zero to every word from the one it has come to up to word `n`. On a word that an
outstanding access touches either may come first. -/
def Card.scrubTo (n : Nat) (cd : Card × Nat) : Card × Nat :=
  match cd.1.scrub with
  | none => cd
  | some p =>
    let cd := (cd.1.wordsInWay p n).foldl (fun cd w => Card.othersFirst cd.1.nextOp true w cd) cd
    ({ cd.1.zeroed p n with scrub := some (max p n) }, cd.2)

/-- The card and the draws of the state replaced. -/
def State.withCardDraws (s : State) (cd : Card × Nat) : State := { s with card := cd.1, draws := cd.2 }

/-- R5: a running scrub has gone on by some words, short of the last one (notes/assumptions/16.md). -/
def State.scrubOn (s : State) : State :=
  match s.card.scrub with
  | none => s
  | some p => s.withCardDraws (Card.scrubTo (min (p + Config.scrubPace s.draws) (s.cardSize / 8 - 1)) (s.card, s.draws + 1))

/-- R5: the scrub has written its last word, the last of the strapped size. -/
def State.scrubEnd (s : State) : State :=
  (s.withCardDraws (Card.scrubTo (s.cardSize / 8) (s.card, s.draws))).withCard fun c => { c with scrub := none }

end Sys2Proof.Machine
end

