-- ==== Sys2Proof/Machine/Records.lean ====
section
/-! DEFINITION. The numeric codes and byte layouts of the records the part writes: completion record (R197),
admin completion (R199), event record (R200), counter report (R201). -/

namespace Sys2Proof.Machine

/-! ### Codes -/

/-- Status codes of the completion record (R197). -/
def Status.code : Status → Nat
  | .ok => 0 | .window => 1 | .fenced => 2 | .hostRead => 3 | .cardEcc => 4 | .malformed => 5 | .aborted => 6

/-- A class code is its status code (R200). -/
def ErrorClass.code : ErrorClass → Nat
  | .window => 1 | .fenced => 2 | .hostRead => 3 | .cardEcc => 4 | .malformed => 5

/-- The error class a status belongs to (R141). -/
def Status.errorClass : Status → Option ErrorClass
  | .ok => none | .window => some .window | .fenced => some .fenced | .hostRead => some .hostRead
  | .cardEcc => some .cardEcc | .malformed => some .malformed | .aborted => none

/-- Detail codes of ABORTED (R197). -/
def AbortDetail.code : AbortDetail → Nat
  | .partitionFault => 1 | .partitionClose => 2 | .stop => 3

/-- Admin status codes (R199). -/
def AdminStatus.code : AdminStatus → Nat
  | .ok => 0x00 | .unknownOpcode => 0x01 | .badParam => 0x02 | .state => 0x03 | .locked => 0x04 | .overlap => 0x05
  | .limit => 0x06 | .poolBusy => 0x07 | .inUse => 0x08 | .deferFull => 0x09 | .cancelled => 0x0A
  | .superseded => 0x0B | .faulted => 0x0C

/-- Cause codes of the two fault events and the counter report (R200, R201). -/
def FaultCause.code : FaultCause → Nat
  | .fetchError => 1 | .sqIndex => 2 | .cqIndex => 3 | .haltDisposition => 4

/-- Admin fault cause codes, the same in STATUS and in the event (R183, R200). -/
def ChannelFault.code : ChannelFault → Nat
  | .fetchError => 1 | .sqIndex => 2 | .cqIndex => 3

/-- Partition state codes of the counter report; 0 is not written (R201). -/
def PartState.code : PartState → Nat
  | .closed => 0 | .opened => 1 | .quiescing => 2 | .quiesced => 3 | .faulted => 4 | .closing => 5

/-- Opcodes of the commands that may defer (R198). -/
def DeferOp.code : DeferOp → Nat
  | .windowClose => 0x12 | .fenceSet => 0x18 | .partitionQuiesce => 0x02 | .partitionClose => 0x04

/-- The pass marker as bit 7 of its byte. -/
def passBit (pass : Bool) : Nat := if pass then 128 else 0

/-! ### Completion record -/

/-- R197: the 16 bytes of a completion record. -/
def completionBytes (tag : Tag) (firstIndex memberCount : Nat) (v : Verdict) (bytesDone : Nat) (result : BitVec 32)
    (pass : Bool) : List Byte :=
  leBytes 2 tag.toNat ++ leBytes 2 firstIndex ++ leBytes 1 v.status.code ++ leBytes 1 v.detail
    ++ leBytes 1 (v.failedMember % 16) ++ leBytes 1 (memberCount % 32 + passBit pass) ++ leBytes 4 bytesDone
    ++ leBytes 4 result.toNat

/-! ### Admin completion -/

/-- R199: the 16 bytes of an admin completion. -/
def adminBytes (tag : Tag) (opcode : Nat) (status : AdminStatus) (detail : Nat) (pass : Bool) : List Byte :=
  leBytes 2 tag.toNat ++ leBytes 1 opcode ++ leBytes 1 status.code ++ leBytes 1 detail ++ leBytes 2 0
    ++ leBytes 1 (passBit pass) ++ leBytes 8 0

/-! ### Event record -/

/-- The events of R148. -/
inductive Event where
  | transferError (p : PNum) (tag : Tag) (cls : ErrorClass) (detail : Nat)
  | partitionFault (p : PNum) (cause : FaultCause)
  | adminFault (cause : ChannelFault)
  | poolLow (count : Nat)
  | poolRecovered (count : Nat)
  | eventsLost (count : Nat)
  deriving DecidableEq, Repr

/-- R133: PARTITION_FAULT and ADMIN_FAULT are urgent. -/
def Event.urgent : Event → Bool
  | .partitionFault _ _ | .adminFault _ => true
  | .transferError _ _ _ _ | .poolLow _ | .poolRecovered _ | .eventsLost _ => false

/-- The fields of an event record in the order of R200. -/
def eventFields (kind partition tag cls detail cause count : Nat) (pass : Bool) : List Byte :=
  leBytes 1 kind ++ leBytes 1 partition ++ leBytes 2 tag ++ leBytes 1 cls ++ leBytes 1 detail ++ leBytes 1 cause
    ++ leBytes 1 (passBit pass) ++ leBytes 2 count ++ leBytes 6 0

/-- R148, R200: the 16 bytes of an event record. -/
def Event.bytes (e : Event) (pass : Bool) : List Byte :=
  match e with
  | .transferError p tag cls detail => eventFields 1 p.val tag.toNat cls.code detail 0 0 pass
  | .partitionFault p cause => eventFields 2 p.val 0 0 0 cause.code 0 pass
  | .adminFault cause => eventFields 3 0 0 0 0 cause.code 0 pass
  | .poolLow n => eventFields 4 0 0 0 0 0 n pass
  | .poolRecovered n => eventFields 5 0 0 0 0 0 n pass
  | .eventsLost n => eventFields 6 0 0 0 0 0 n pass

/-! ### Counter report -/

/-- R201: the 32 bytes of a counter report of partition `p`. -/
def reportBytes (p : PNum) (x : Partition) : List Byte :=
  leBytes 1 p.val ++ leBytes 1 x.st.code ++ leBytes 1 ((x.faultCause.map FaultCause.code).getD 0) ++ leBytes 5 0
    ++ leBytes 4 x.groupsOk.toNat ++ leBytes 4 x.groupsFailed.toNat ++ leBytes 8 x.bytesMoved.toNat
    ++ leBytes 4 x.bufferWaits.toNat ++ leBytes 4 0

end Sys2Proof.Machine
end

