-- ==== Sys2Proof/Machine/Vectors.lean ====
section
/-! DEFINITION. The Message Unit (R130 to R138): new records, consumer index writes and holdoff expiries at a
vector, and the messages they send. -/

namespace Sys2Proof.Machine

/-- R181: a posted write joins the end of the write store. -/
def State.postWrite (s : State) (w : PostedWrite) : State := s.withLink fun l => { l with store := l.store ++ [w] }

/-- The holdoff H of a vector as a timer in µs: units of 4 µs, none when H is 0 (R132). -/
def MsgVector.startTimer (v : MsgVector) : Option Nat := if v.holdoff = 0 then none else some (4 * v.holdoff)

/-- A send leaves the vector ANNOUNCED with nothing counted (R131). -/
def MsgVector.sent (v : MsgVector) : MsgVector := { v with st := .announced, u := 0, urgent := false, timer := none }

/-- A vector's answer to an event: the vector after it, and whether it sends. -/
abbrev Reaction := MsgVector × Bool

/-- R131, R133: a new record on the ring of an enabled vector. -/
def MsgVector.onRecord (v : MsgVector) (urgent : Bool) : Reaction :=
  if !v.enable then (v, false)
  else match v.st with
    | .quiet =>
      if urgent || decide (v.threshold = 1) then (v.sent, true)
      else ({ v with st := .gathering, u := 1, timer := v.startTimer }, false)
    | .gathering =>
      if urgent || decide (v.threshold ≤ v.u + 1) then (v.sent, true)
      else ({ v with u := v.u + 1 }, false)
    | .announced => ({ v with u := v.u + 1, urgent := v.urgent || urgent }, false)

/-- R131: an accepted consumer index write at an enabled vector. -/
def MsgVector.onConsume (v : MsgVector) : Reaction :=
  if !v.enable then (v, false)
  else match v.st with
    | .quiet | .gathering => (v, false)
    | .announced =>
      if v.u = 0 then ({ v with st := .quiet }, false)
      else if v.urgent || decide (v.threshold ≤ v.u) then (v.sent, true)
      else ({ v with st := .gathering, timer := v.startTimer }, false)

/-- R131, R132: the holdoff timer of a GATHERING vector, run down, expires. -/
def MsgVector.onExpiry (v : MsgVector) : Reaction :=
  if v.enable && decide (v.st = .gathering) && decide (v.timer = some 0) then (v.sent, true) else (v, false)

/-- R136: the message of vector `n`: one posted write of its 4 bytes of data to its address, the least significant
byte at the lowest address (DESIGN CHOICE, notes/assumptions/27.md: R195 orders the bytes of the records alone). -/
def MsgVector.message (v : MsgVector) (n : VNum) : PostedWrite :=
  { kind := .message n, addr := v.address, bytes := leBytes 4 v.data.toNat }

/-- The vector takes its reaction, and a send generates its message. -/
def State.react (s : State) (n : VNum) (r : Reaction) : State :=
  let s := s.withVector n fun _ => r.1
  if r.2 then s.postWrite (r.1.message n) else s

/-- A record is reported to vector `n` (R123, R127, R151). -/
def State.newRecord (s : State) (n : VNum) (urgent : Bool) : State := s.react n ((s.vector n).onRecord urgent)

/-- An accepted consumer index write is reported to vector `n` (R128). -/
def State.consumeWrite (s : State) (n : VNum) : State := s.react n (s.vector n).onConsume

/-- The vector that serves the completion ring of partition `p`. -/
def partVector (p : PNum) : VNum := ⟨p.val, by omega⟩

/-- The vector of the admin completion ring. -/
def adminVector : VNum := 16

/-- The vector of the event ring. -/
def eventVector : VNum := 17

/-- R138: a VECTOR_SET leaves the vector QUIET under its new parameters. -/
def MsgVector.configured (enable : Bool) (threshold holdoff : Nat) (address : HostAddr) (data : BitVec 32) : MsgVector :=
  { enable, threshold, holdoff, address, data, st := .quiet, u := 0, urgent := false, timer := none }

end Sys2Proof.Machine
end

