-- ==== Sys2Proof/Machine/Events.lean ====
section
/-! DEFINITION. The Event Poster (R148 to R156): the hand-over of an event, the event ring and its lost count. -/

namespace Sys2Proof.Machine

/-- The unconsumed records of the event ring (R150). -/
def EventRing.unconsumed (r : EventRing) : Nat := ringSpan r.tail r.head r.size

/-- The ring holds its usable capacity (R150). -/
def EventRing.full (r : EventRing) : Bool := decide (r.size ≤ r.unconsumed + 1)

/-- The ring takes an event (R151). -/
def EventRing.takes (r : EventRing) : Bool := r.configured && !r.full

/-- The tail moves past one record; the marker flips when it returns to 0 (R151). -/
def EventRing.advance (r : EventRing) : EventRing :=
  let t := ringNext r.tail r.size
  { r with tail := t, pass := if t = 0 then !r.pass else r.pass }

/-- One more event lost, up to 65535 (R153). -/
def EventRing.lose (r : EventRing) : EventRing := { r with lost := if r.lost < Config.lostMax then r.lost + 1 else r.lost }

/-- R151: the event is written at the tail and reported to vector 17. The entry's address is taken modulo 2^64 (DESIGN
CHOICE, notes/assumptions/26.md). -/
def State.writeEvent (s : State) (e : Event) : State :=
  let r := s.events
  let s := s.postWrite { kind := .event, addr := r.base + BitVec.ofNat 64 (16 * r.tail), bytes := e.bytes r.pass }
  (s.withEvents EventRing.advance).newRecord eventVector e.urgent

/-- R149, R151, R153: an event handed over is written, or lost when the ring is full or unconfigured. -/
def State.handOver (s : State) (e : Event) : State :=
  if s.events.takes then s.writeEvent e else s.withEvents EventRing.lose

/-- R154, R156: a pending count of lost events is written as EVENTS_LOST, and the count starts from 0. -/
def State.writeLost (s : State) : State :=
  (s.writeEvent (.eventsLost s.events.lost)).withEvents fun r => { r with lost := 0 }

/-- R152, R154: an event ring head. -/
def State.eventHead (s : State) (h : Nat) : State :=
  let r := s.events
  if r.configured && headValid h r.head r.tail r.size then
    let s := s.withEvents fun r => { r with head := h }
    let s := if !s.events.full && decide (0 < s.events.lost) then s.writeLost else s
    s.consumeWrite eventVector
  else s.rejectNotify

/-- R156: the event ring starts afresh with a base and a size, or unconfigured with size 0; the lost count is
kept, and written into entry 0 of a configured ring. -/
def State.setEventRing (s : State) (size : Nat) (base : HostAddr) : State :=
  let s := s.withEvents fun r =>
    { configured := decide (size ≠ 0), base, size, tail := 0, head := 0, pass := true, lost := r.lost }
  if decide (size ≠ 0) && decide (0 < s.events.lost) then s.writeLost else s

/-- R156: the tests of EVENT_RING_SET. -/
def eventRingParamsOk (size : Nat) (base : HostAddr) : Bool :=
  (decide (size = 0) || sizeBetween size 4 10) && decide (base.toNat % Config.pageSize = 0)
    && (decide (size ≠ 0) || decide (base = 0))

end Sys2Proof.Machine
end

