-- ==== Sys2Proof/Machine/Completion.lean ====
section
/-! DEFINITION. The Completion Poster (R122 to R127) and the deferred command table (R167 to R169). -/

namespace Sys2Proof.Machine

/-! ### Admin completions -/

/-- The producer index moves on; the marker flips when it returns to 0 (R127). -/
def Poster.advance (q : Poster) (size : Nat) : Poster :=
  let i := ringNext q.index size
  { index := i, pass := if i = 0 then !q.pass else q.pass }

/-- R127: an admin completion is written at the producer index, its reservation becomes the written record, and
the record is reported to vector 16. The entry's address is taken modulo 2^64 (DESIGN CHOICE, notes/assumptions/26.md). -/
def State.adminComplete (s : State) (opcode : Nat) (tag : Tag) (status : AdminStatus) (detail : Nat) : State :=
  let a := s.admin
  let q := s.poster
  let s := s.postWrite { kind := .adminCompletion, addr := a.cqBase + BitVec.ofNat 64 (16 * q.index),
                         bytes := adminBytes tag opcode status detail q.pass }
  let s := s.withPoster fun q => q.advance a.cqSize
  let s := s.withAdmin fun a => { a with reserved := a.reserved - 1 }
  s.newRecord adminVector false

/-- The admin completions written and not consumed (R159). -/
def State.adminUnconsumed (s : State) : Nat := ringSpan s.poster.index s.admin.cqHead s.admin.cqSize

/-! ### The deferred command table -/

/-- The number of the entry that waits on an object (R168). -/
def State.deferredAt (s : State) (op : DeferOp) (object : Nat) : Option (Fin 8) :=
  lowest fun i => match look s.admin.deferred i with
    | some d => decide (d.op = op) && decide (d.object = object)
    | none => false

/-- The lowest free entry (R167). -/
def State.deferredFree (s : State) : Option (Fin 8) := lowest fun i => (look s.admin.deferred i).isNone

/-- Entry `i` of the table is set. -/
def State.setDeferred (s : State) (i : Fin 8) (d : Option Deferred) : State :=
  s.withAdmin fun a => { a with deferred := upd a.deferred i fun _ => d }

/-- R167: a command takes entry `i` with answer POST. -/
def State.takeDeferred (s : State) (i : Fin 8) (op : DeferOp) (tag : Tag) (object : Nat) : State :=
  s.setDeferred i (some { op, tag, object, post := true, report := none })

/-- R168: the owning block reports the end of deferred work. The entry is freed, and its completion is handed
over when its answer is POST. In HALTED the report is recorded in the entry. -/
def State.reportDeferred (s : State) (op : DeferOp) (object : Nat) (status : AdminStatus) : State :=
  match s.deferredAt op object with
  | none => s
  | some i =>
    match look s.admin.deferred i with
    | none => s
    | some d =>
      if s.halted then s.setDeferred i (some { d with report := some status })
      else
        let s := s.setDeferred i none
        if d.post then s.adminComplete d.op.code d.tag status 0 else s

/-- The deferred entries whose answer is POST. -/
def State.postingDeferred (s : State) : Nat :=
  total fun i : Fin 8 => match look s.admin.deferred i with
    | some d => if d.post then 1 else 0
    | none => 0

/-- The answer of an entry becomes DISCARD. -/
def Deferred.discarded (d : Deferred) : Deferred := { d with post := false }

/-- R171, R174: every occupied entry becomes DISCARD, and the reservations of the entries and of a read still
outstanding are released. -/
def State.discardAnswers (s : State) : State :=
  let n := s.postingDeferred + (if s.admin.readOutstanding then 1 else 0)
  s.withAdmin fun a =>
    { a with reserved := a.reserved - n, deferred := mapTab (fun _ d => d.map Deferred.discarded) a.deferred }

/-! ### Group completions -/

/-- The partition has faulted for CQ_INDEX, so its completions are discarded (R47). -/
def Partition.discards (x : Partition) : Bool := decide (x.faultCause = some .cqIndex)

/-- R49: a completion counts. A discarded one counts as failed whatever its status. -/
def Partition.count (x : Partition) (status : Status) (bytesDone : Nat) : Partition :=
  let x := { x with bytesMoved := x.bytesMoved + BitVec.ofNat 64 bytesDone }
  if decide (status = .ok) && !x.discards then { x with groupsOk := countUp x.groupsOk }
  else { x with groupsFailed := countUp x.groupsFailed }

/-- R42, R123: the completion tail moves past one record; the marker flips when it returns to 0. -/
def Partition.advanceCq (x : Partition) : Partition :=
  let t := ringNext x.cqTail x.cqSize
  { x with cqTail := t, cqPass := if t = 0 then !x.cqPass else x.cqPass }

/-- A reservation is released (R42). -/
def Partition.unreserve (x : Partition) : Partition := { x with cqReserved := x.cqReserved - 1 }

/-- R97: the completion record of the group in a slot, with a pass marker. -/
def Slot.record (x : Slot) (v : Verdict) (pass : Bool) : List Byte :=
  completionBytes ((x.members[0]?.map SubRecord.tag).getD 0) x.firstIndex x.members.length v x.bytesDone
    (x.digest.getD 0) pass

/-- R97, R122, R123, R47: the slot enters POSTING and hands its group's completion over. The record is written
and reported to the partition's vector, or discarded after a CQ_INDEX fault; an error class goes to the error
path. The entry's address is taken modulo 2^64 (DESIGN CHOICE, notes/assumptions/26.md). -/
def State.postGroup (s : State) (i : SNum) (v : Verdict) : State :=
  let x := s.slot i
  let p := x.partition
  let y := s.part p
  let s := s.withSlot i fun x =>
    { x with st := .posting, verdict := some v, errorDue := v.status.errorClass.isSome, posted := y.discards }
  let s := s.withPart p fun y => (y.count v.status x.bytesDone).unreserve
  if y.discards then s
  else
    let s := s.postWrite { kind := .completion i, addr := y.cqBase + BitVec.ofNat 64 (16 * y.cqTail),
                           bytes := x.record v y.cqPass }
    (s.withPart p Partition.advanceCq).newRecord (partVector p) x.notifyNow

end Sys2Proof.Machine
end

