-- ==== Sys2Proof/Machine/Link.lean ====
section
/-! DEFINITION. The Host Link Unit (R176 to R182): host ranges cut into read requests, the read queue, the read
tags and their timers, and the write store. -/

namespace Sys2Proof.Machine

/-! ### Reads -/

/-- R176: a host range cut at every multiple of 512 it crosses; each piece is (address, length, place in the
range). The first argument bounds the number of pieces. -/
def cutRange : Nat → Nat → Nat → Nat → List (Nat × Nat × Nat)
  | 0, _, _, _ => []
  | k + 1, addr, len, place =>
    if len = 0 then []
    else
      let n := min len (Config.readCut - addr % Config.readCut)
      (addr, n, place) :: cutRange k (addr + n) (len - n) (place + n)

/-- The read requests of a host range (R176). -/
def readRequests (r : Requester) (addr : HostAddr) (len : Nat) : List ReadRequest :=
  (cutRange (len / Config.readCut + 2) addr.toNat len 0).map fun x =>
    { requester := r, addr := BitVec.ofNat 64 x.1, len := x.2.1, place := x.2.2 }

/-- R176, R177: the requests of a range join the read queue together, in address order. -/
def State.askRead (s : State) (r : Requester) (addr : HostAddr) (len : Nat) : State :=
  s.withLink fun l => { l with queue := l.queue ++ readRequests r addr len }

/-- The request is a COPY_IN request of slot `i`. -/
def Requester.ofSlot (i : SNum) : Requester → Bool
  | .copyIn j _ => decide (j = i)
  | .record _ | .admin | .orphan => false

/-- R177: a slot's unissued COPY_IN requests leave the queue. -/
def State.withdrawReads (s : State) (i : SNum) : State :=
  s.withLink fun l => { l with queue := l.queue.filter fun q => !q.requester.ofSlot i }

/-- The unissued requests of a chunk. -/
def State.unissued (s : State) (i : SNum) (chunk : Nat) : Nat :=
  (s.link.queue.filter fun q => decide (q.requester = .copyIn i chunk)).length

/-- R64: a record read of slot `i` belongs to no slot allocation any more (DEDUCED, notes/assumptions/20.md). -/
def ReadRequest.orphaned (i : SNum) (q : ReadRequest) : ReadRequest :=
  if q.requester = .record i then { q with requester := .orphan } else q

/-- R64: a tag's request likewise. -/
def TagState.orphaned (i : SNum) : TagState → TagState
  | .busy q got left limit => .busy (q.orphaned i) got left limit
  | t => t

/-- R64: the record reads of slot `i` that are still outstanding will be discarded when they end. -/
def State.orphanReads (s : State) (i : SNum) : State :=
  s.withLink fun l => { l with queue := l.queue.map (ReadRequest.orphaned i), tags := mapTab (fun _ t => t.orphaned i) l.tags }

/-- The tag is FREE. -/
def TagState.isFree : TagState → Bool
  | .free => true
  | .busy _ _ _ _ | .quarantined _ => false

/-- The tag is BUSY. -/
def TagState.isBusy : TagState → Bool
  | .busy _ _ _ _ => true
  | .free | .quarantined _ => false

/-- The request on tag `t`, with what has arrived of it, the time left on its timer and the timeout it was issued
with. In HALTED the unit takes no return (R101, R182; DEDUCED, notes/assumptions/22.md). -/
def State.onLink (s : State) (t : TNum) : Option (ReadRequest × List (Option Byte) × Nat × Nat) :=
  if s.halted then none
  else match s.tag t with
    | .busy q got left limit => some (q, got, left, limit)
    | .free | .quarantined _ => none

/-- The lowest FREE tag (R177). -/
def State.freeTag (s : State) : Option TNum := lowest fun t => (s.tag t).isFree

/-- A host read timeout in ms as a time in µs (R179). -/
def msToUs (ms : Nat) : Nat := 1000 * ms

/-- R177, R179: the request at the front takes tag `t`, leaves the queue and goes out on the link with its timer
started at the timeout in force. -/
def State.issueRead (s : State) (q : ReadRequest) (rest : List ReadRequest) (t : TNum) : State :=
  s.withLink fun l =>
    { l with queue := rest
             tags := upd l.tags t fun _ =>
               .busy q (List.replicate q.len none) (msToUs l.timeout) (msToUs l.timeout)
             out := some (.read t q.addr q.len) }

/-- R178: bytes placed at an offset of a request's data; bytes beyond the request are not placed
(DESIGN CHOICE, notes/assumptions/18.md). -/
def placeBytes (got : List (Option Byte)) : Nat → List Byte → List (Option Byte)
  | _, [] => got
  | off, b :: rest => placeBytes (got.set off (some b)) (off + 1) rest

/-- Every byte of a request has arrived. -/
def allArrived (got : List (Option Byte)) : Bool := got.all Option.isSome

/-- The data of a request whose every byte has arrived. -/
def arrivedData (got : List (Option Byte)) : List Byte := got.map fun b => b.getD 0

/-- R182: at a function reset a BUSY tag is quarantined for 32 ms. -/
def TagState.onFunctionReset : TagState → TagState
  | .busy _ _ _ _ => .quarantined (msToUs Config.defaultTimeout)
  | .free => .free
  | .quarantined left => .quarantined left

/-! ### Posted writes -/

/-- The write carries COPY_OUT data and holds a data place (R181). -/
def PostedWrite.isData (w : PostedWrite) : Bool := decide (w.kind = .data)

/-- The data places in use. -/
def Link.placesUsed (l : Link) : Nat := (l.store.filter PostedWrite.isData).length

/-- R181: how many bytes of a posted write go out as the next write on the link: records whole, chunk data in
writes of at most 256 bytes that do not cross a multiple of 256. -/
def PostedWrite.pieceLen (w : PostedWrite) : Nat :=
  if w.isData then min w.bytes.length (Config.writeCut - w.addr.toNat % Config.writeCut) else w.bytes.length

/-- The part of a posted write that is left when its next piece has been issued. -/
def PostedWrite.rest (w : PostedWrite) : PostedWrite :=
  { w with addr := w.addr + BitVec.ofNat 64 w.pieceLen, bytes := w.bytes.drop w.pieceLen }

/-- R181: the first posted write of the store puts its next piece on the link; it leaves the store with its last
piece. -/
def Link.issueWrite (l : Link) : Link :=
  match l.store with
  | [] => l
  | w :: rest =>
    { l with store := if w.rest.bytes.isEmpty then rest else w.rest :: rest
             out := some (.write w.addr (w.bytes.take w.pieceLen)) }

/-! ### Time -/

/-- `n` µs pass at a tag (R179). -/
def TagState.elapse (n : Nat) : TagState → TagState
  | .free => .free
  | .busy q got left limit => .busy q got (left - n) limit
  | .quarantined left => .quarantined (left - n)

/-- `n` µs pass at a vector (R132). -/
def MsgVector.elapse (n : Nat) (v : MsgVector) : MsgVector := { v with timer := v.timer.map fun left => left - n }

/-- `n` µs pass on the part's time base: read timers and quarantines run; holdoff timers run except in HALTED,
where they are frozen (R139, R192). -/
def State.elapse (s : State) (n : Nat) : State :=
  let s := s.withLink fun l => { l with tags := mapTab (fun _ t => t.elapse n) l.tags }
  if s.halted then s else { s with vectors := mapTab (fun _ v => v.elapse n) s.vectors }

end Sys2Proof.Machine
end

