-- ==== Sys2Proof/Machine/Windows.lean ====
section
/-! DEFINITION. The Window Unit (chapter 1): the isolation rule, the window commands, references and retirement,
and what partition closes and resets do to the table. -/

namespace Sys2Proof.Machine

/-- The window grants writes. -/
def Access.writes : Access → Bool
  | .write | .readWrite => true
  | .read => false

/-- The window grants reads. -/
def Access.reads : Access → Bool
  | .read | .readWrite => true
  | .write => false

/-- Access codes of WINDOW_OPEN (R198). -/
def accessOfCode (n : Nat) : Option Access :=
  match n with
  | 1 => some .read
  | 2 => some .write
  | 3 => some .readWrite
  | _ => none

/-- OPEN, LOCKED or RETIRING (R6). -/
def Window.inUse (w : Window) : Bool := decide (w.st ≠ .free)

/-- R8: a window conflicts with a new one of another owner when their ranges share a byte and one of the two
permits writes. -/
def Window.conflicts (w : Window) (owner : PNum) (base length : Nat) (access : Access) : Bool :=
  w.inUse && decide (w.owner ≠ some owner) && overlaps w.cardBase w.length base length
    && (w.access.writes || access.writes)

/-- The lowest window that conflicts with a new one (R8). -/
def State.conflict (s : State) (owner : PNum) (base length : Nat) (access : Access) : Option WNum :=
  lowest fun w => (s.window w).conflicts owner base length access

/-- The non-FREE windows whose owner is `p` (R7, test 4). -/
def State.windowsOwned (s : State) (p : PNum) : Nat :=
  (which fun w => (s.window w).inUse && decide ((s.window w).owner = some p)).length

/-- R7, R25: base and length are multiples of 4 KiB, the length is at least 4 KiB, and the range ends within
card memory, computed without wrap-around. -/
def State.rangeOk (s : State) (base length : Nat) : Bool :=
  decide (base % Config.pageSize = 0) && decide (length % Config.pageSize = 0) && decide (Config.pageSize ≤ length)
    && decide (base + length ≤ s.cardSize)

/-- R9: the entry an accepted WINDOW_OPEN leaves. -/
def Window.fresh (owner : PNum) (base length : Nat) (access : Access) : Window :=
  { st := .opened, owner := some owner, cardBase := base, length, access, refs := 0, closeTag := none, parityOk := true }

/-- R18: a window returns to FREE; its owner and close_tag are cleared. -/
def Window.freed (w : Window) : Window := { w with st := .free, owner := none, refs := 0, closeTag := none }

/-- R12: what the close of its owner does to a window. -/
def Window.ownerClosed (w : Window) : Window :=
  if w.st = .opened then (if w.refs = 0 then w.freed else { w with st := .retiring, closeTag := none }) else w

/-- R12: a partition close acts on every window whose owner is that partition. -/
def State.closeWindows (s : State) (p : PNum) : State :=
  { s with windows := mapTab (fun _ w => if w.owner = some p then w.ownerClosed else w) s.windows }

/-- R15: the member takes one reference on the window of each operand. -/
def State.takeRefs (s : State) : List WNum → State
  | [] => s
  | w :: rest => (s.withWindow w fun x => { x with refs := x.refs + 1 }).takeRefs rest

/-- R17, R18: one reference is released; a RETIRING window whose count reaches 0 goes FREE, and a deferred
WINDOW_CLOSE that waits on it is answered. -/
def State.dropRef (s : State) (w : WNum) : State :=
  let s := s.withWindow w fun x => { x with refs := x.refs - 1 }
  let x := s.window w
  if x.st = .retiring ∧ x.refs = 0 then
    let s := s.withWindow w Window.freed
    if x.closeTag.isSome then s.reportDeferred .windowClose w.val .ok else s
  else s

/-- R17: the references of a member are released in the step of its end, one for each operand. -/
def State.dropRefs (s : State) : List WNum → State
  | [] => s
  | w :: rest => (s.dropRef w).dropRefs rest

/-- R19: what a function reset leaves of a window. -/
def Window.functionReset (w : Window) : Window := if w.st = .locked then { w with refs := 0, closeTag := none } else Window.free

end Sys2Proof.Machine
end

