-- ==== Sys2Proof/Machine/Operands.lean ====
section
/-! DEFINITION. The operands of a member: the operations, the format checks at member start (R67 to R71), the
card operands, their window checks and translation (R14 to R16, R78), and the cut into chunks (R79). -/

namespace Sys2Proof.Machine

/-- The transfer operations (R67). -/
inductive Op where
  | mark | copyIn | copyOut | move | fill | digest
  deriving DecidableEq, Repr

/-- The operation a record names; none for op codes 6 to 255 (R67). -/
def opOf (r : SubRecord) : Option Op :=
  match r.op.toNat with
  | 0 => some .mark
  | 1 => some .copyIn
  | 2 => some .copyOut
  | 3 => some .move
  | 4 => some .fill
  | 5 => some .digest
  | _ => none

/-- The operation's chunks pass through a staging buffer (R81, condition 4). -/
def Op.needsBuffer : Op → Bool
  | .copyIn | .copyOut | .move => true
  | .mark | .fill | .digest => false

/-! ### Format checks -/

/-- Detail codes of MALFORMED (R197). -/
def detailOpcode : Nat := 1
def detailFlags : Nat := 2
def detailReserved : Nat := 3
def detailLength : Nat := 4
def detailOverlap : Nat := 5
def detailGroupLength : Nat := 6
def detailWindowNumber : Nat := 7

/-- Detail codes of WINDOW (R197). -/
def detailNotOpen : Nat := 1
def detailNotOwner : Nat := 2
def detailBounds : Nat := 3
def detailPermission : Nat := 4

/-- A failure: status and detail. -/
abbrev Failure := Status × Nat

/-- R68: every field that the operation's row marks "zero" is zero. -/
def zeroFieldsOk (r : SubRecord) (op : Op) : Bool :=
  let host := decide (r.hostAddr = 0)
  let primary := decide (r.primaryWindow = 0) && decide (r.primaryOffset = 0)
  let secondary := decide (r.secondaryWindow = 0) && decide (r.secondaryOffset = 0)
  let pattern := decide (r.pattern = 0)
  match op with
  | .mark => host && primary && secondary && pattern
  | .copyIn | .copyOut => secondary && pattern
  | .move => host && pattern
  | .fill => host && secondary
  | .digest => host && secondary && decide (r.pattern >>> 32 = 0)

/-- R70: the length, and for COPY_IN and COPY_OUT the host range computed without wrap-around. -/
def lengthOk (r : SubRecord) (op : Op) : Bool :=
  let n := r.length.toNat
  match op with
  | .mark => decide (n = 0)
  | .copyIn | .copyOut => decide (1 ≤ n) && decide (n ≤ Config.maxTransfer) && decide (r.hostAddr.toNat + n ≤ 2 ^ 64)
  | .move | .fill | .digest => decide (1 ≤ n) && decide (n ≤ Config.maxTransfer)

/-- R71: the format checks in order; the operation when all pass. -/
def formatCheck (r : SubRecord) : Except Failure Op :=
  match opOf r with
  | none => .error (.malformed, detailOpcode)
  | some op =>
    if r.flags &&& 0xF8 ≠ 0 then .error (.malformed, detailFlags)
    else if !(decide (r.reservedLow = 0) && decide (r.reservedHigh = 0) && zeroFieldsOk r op) then
      .error (.malformed, detailReserved)
    else if !lengthOk r op then .error (.malformed, detailLength)
    else .ok op

/-! ### Card operands -/

/-- A card operand: window number, offset, and the use it makes of the window (R14). -/
structure CardOperand where
  window : Nat
  offset : Nat
  writes : Bool
  deriving DecidableEq, Repr

/-- R14: the primary operand of a member. -/
def primaryOperand (r : SubRecord) : Op → Option CardOperand
  | .mark => none
  | .copyIn | .move | .fill => some ⟨r.primaryWindow.toNat, r.primaryOffset.toNat, true⟩
  | .copyOut | .digest => some ⟨r.primaryWindow.toNat, r.primaryOffset.toNat, false⟩

/-- R14: the secondary operand of a member: the source of a MOVE. -/
def secondaryOperand (r : SubRecord) : Op → Option CardOperand
  | .move => some ⟨r.secondaryWindow.toNat, r.secondaryOffset.toNat, false⟩
  | .mark | .copyIn | .copyOut | .fill | .digest => none

/-- R14: the window's access right permits the use. -/
def CardOperand.permitted (o : CardOperand) (a : Access) : Bool := if o.writes then a.writes else a.reads

/-- R15, R16: the five checks on an operand of a member of partition `p`; the window and the translated card
range when all pass. -/
def State.checkOperand (s : State) (p : PNum) (len : Nat) (o : CardOperand) : Except Failure (WNum × CardRange) :=
  match asNum 64 o.window with
  | none => .error (.malformed, detailWindowNumber)
  | some n =>
    let w := s.window n
    if !(decide (w.st = .opened) || decide (w.st = .locked)) then .error (.window, detailNotOpen)
    else if w.owner ≠ some p then .error (.window, detailNotOwner)
    else if w.length < o.offset + len then .error (.window, detailBounds)
    else if !o.permitted w.access then .error (.window, detailPermission)
    else .ok (n, { base := w.cardBase + o.offset, len })

/-- The operands of a member that has passed its start. -/
structure Translated where
  op : Op
  primary : Option CardRange
  secondary : Option CardRange
  refs : List WNum
  deriving DecidableEq, Repr

/-- R78: the checks of a member's start, in order: format, each operand primary first, and for a MOVE the two
ranges kept apart. -/
def State.startCheck (s : State) (p : PNum) (r : SubRecord) : Except Failure Translated :=
  match formatCheck r with
  | .error e => .error e
  | .ok op =>
    match primaryOperand r op with
    | none => .ok { op, primary := none, secondary := none, refs := [] }
    | some o =>
      match s.checkOperand p r.length.toNat o with
      | .error e => .error e
      | .ok (w, range) =>
        match secondaryOperand r op with
        | none => .ok { op, primary := some range, secondary := none, refs := [w] }
        | some o2 =>
          match s.checkOperand p r.length.toNat o2 with
          | .error e => .error e
          | .ok (w2, range2) =>
            if overlaps range.base range.len range2.base range2.len then .error (.malformed, detailOverlap)
            else .ok { op, primary := some range, secondary := some range2, refs := [w, w2] }

/-- The windows whose entries a member's start reads: those of its operands, once its format checks pass. -/
def startReads (r : SubRecord) : List WNum :=
  match formatCheck r with
  | .error _ => []
  | .ok op =>
    ((primaryOperand r op).toList ++ (secondaryOperand r op).toList).filterMap fun o => asNum 64 o.window

/-! ### Chunks -/

/-- The chunk count: the length divided by 2048 and rounded up (R79). -/
def chunkCount (len : Nat) : Nat := (len + (Config.chunkSize - 1)) / Config.chunkSize

/-- The bytes of chunk `k` of a member of `len` bytes (section 5.4). -/
def chunkLen (len k : Nat) : Nat := min Config.chunkSize (len - Config.chunkSize * k)

/-- Bytes of the longest run of chunks from chunk 0 on (R89). -/
def runBytes (len done : Nat) : Nat := min len (Config.chunkSize * done)

/-- The CRC seed of a DIGEST: the low 4 bytes of pattern (R99). -/
def seedOf (r : SubRecord) : BitVec 32 := r.pattern.setWidth 32

/-- Pattern byte `j` (R86, R196). -/
def patternByteOf (r : SubRecord) (j : Nat) : Byte := (r.pattern >>> (8 * j)).setWidth 8

/-- The bytes a FILL chunk stores: member byte `i` is pattern byte `i` mod 8, and a chunk begins with pattern
byte 0 (R86). -/
def fillData (r : SubRecord) (size : Nat) : List Byte := (List.range size).map fun i => patternByteOf r (i % 8)

/-- The member context a started member gets (R79). -/
def memberCtx (r : SubRecord) (t : Translated) : MemberCtx :=
  { primary := t.primary, secondary := t.secondary, refs := t.refs, count := chunkCount r.length.toNat, next := 0,
    doneChunks := 0, doneAhead := [], crc := seedOf r }

/-- R89: chunk `k` counts as done: the run grows over it and over the chunks already done above it. The first
argument bounds how far the run is followed. -/
def growRun : Nat → List Nat → Nat → Nat
  | 0, _, done => done
  | n + 1, ahead, done => if ahead.contains done then growRun n ahead (done + 1) else done

/-- R89: the member context when chunk `k` has counted as done. -/
def MemberCtx.chunkDone (c : MemberCtx) (k : Nat) : MemberCtx :=
  let ahead := k :: c.doneAhead
  let done := growRun ahead.length ahead c.doneChunks
  { c with doneChunks := done, doneAhead := ahead.filter fun j => decide (done ≤ j) }

end Sys2Proof.Machine
end

