-- ==== Sys2Proof/Machine/Fences.lean ====
section
/-! DEFINITION. The Fence Unit (chapter 2): the check at each card access, access records and their ends, and
what the fence commands and resets do to the list. -/

namespace Sys2Proof.Machine

/-- SETTING or ACTIVE (section 2.1). -/
def Fence.inForce (f : Fence) : Bool := decide (f.st = .setting) || decide (f.st = .active)

/-- R22: the lowest entry in force that overlaps a card range. -/
def State.fenceHit (s : State) (base len : Nat) : Option FNum :=
  lowest fun f => (s.fence f).inForce && overlaps base len (s.fence f).cardBase (s.fence f).length

/-- R2, R21: a card access that the check lets through is issued and gets its record. -/
def State.issueAccess (s : State) (i : SNum) (chunk base len : Nat) (write : Option (List Byte)) : State :=
  let id := s.card.nextOp
  (s.withCard fun c => c.begin (i, chunk) base len write).withFences fun u =>
    { u with records := u.records ++ [{ id, slot := i, chunk, base, len, countedBy := [] }] }

/-- R27: one counted access of a SETTING entry has ended. An entry whose count reaches 0 becomes ACTIVE, and
its FENCE_SET is answered. -/
def State.countDownFence (s : State) (f : FNum) : State :=
  let x := s.fence f
  if x.st = .setting then
    match x.outstanding with
    | some n =>
      if n ≤ 1 then
        let s := s.withFence f fun x => { x with st := .active, outstanding := none, setTag := none }
        if x.setTag.isSome then s.reportDeferred .fenceSet f.val .ok else s
      else s.withFence f fun x => { x with outstanding := some (n - 1) }
    | none => s
  else s

/-- R27: each fence that counted the access, the one set last first. Where one end brings several entries to 0, this is
the order of their FENCE_SET completions, to which the manual gives none (DESIGN CHOICE, notes/assumptions/9.md). -/
def State.countDownFences (s : State) : List FNum → State
  | [] => s
  | f :: rest => (s.countDownFence f).countDownFences rest

/-- R21, R27: the end of card access `id` removes its record and counts down the entries that counted it. -/
def State.endRecord (s : State) (id : Nat) : State :=
  match s.fences.records.find? fun r => decide (r.id = id) with
  | none => s
  | some r =>
    let s := s.withFences fun u => { u with records := u.records.filter fun r => decide (r.id ≠ id) }
    s.countDownFences r.countedBy

/-- R26: the access records that overlap a range. -/
def State.overlapping (s : State) (base len : Nat) : List AccessRecord :=
  s.fences.records.filter fun r => overlaps r.base r.len base len

/-- R26: entry `f` becomes ACTIVE over a range. -/
def State.activateFence (s : State) (f : FNum) (base len : Nat) : State :=
  s.withFence f fun _ => { st := .active, cardBase := base, length := len, outstanding := none, setTag := none }

/-- R26: entry `f` becomes SETTING over a range, counting the records that overlap it. -/
def State.beginFence (s : State) (f : FNum) (base len : Nat) (tag : Tag) : State :=
  let n := (s.overlapping base len).length
  let s := s.withFence f fun _ =>
    { st := .setting, cardBase := base, length := len, outstanding := some n, setTag := some tag }
  s.withFences fun u =>
    { u with records := u.records.map fun r =>
        if overlaps r.base r.len base len then { r with countedBy := f :: r.countedBy } else r }

/-- R31: what a function reset leaves of an entry. -/
def Fence.functionReset (locked : Bool) (f : Fence) : Fence := if locked then { f with setTag := none } else Fence.empty

/-- R31: what a function reset leaves of the fence list and its records. -/
def FenceUnit.functionReset (u : FenceUnit) : FenceUnit :=
  { u with
    entries := mapTab (fun _ f => f.functionReset u.locked) u.entries
    records := if u.locked then u.records else u.records.map fun r => { r with countedBy := [] } }

end Sys2Proof.Machine
end

