-- ==== Sys2Proof/Machine/Pool.lean ====
section
/-! DEFINITION. The Buffer Pool (chapter 6): shares, deficits and shared free, grants and releases, the release
arbiter, and the watermark. -/

namespace Sys2Proof.Machine

/-- The partition is not CLOSED. -/
def Partition.isOpen (x : Partition) : Bool := decide (x.st ≠ .closed)

/-- R105: the deficit of a partition: reserve minus held when positive; a CLOSED one has none. -/
def Partition.deficit (x : Partition) : Nat := if x.isOpen then x.reserve - x.held else 0

/-- The sum of all deficits (R105). -/
def State.deficits (s : State) : Nat := total fun p => (s.part p).deficit

/-- R105: the shared free quantity. -/
def State.sharedFree (s : State) : Nat := s.pool.free - s.deficits

/-- The sum of the reserves of all non-CLOSED partitions but `p` (R34, R115). -/
def State.otherReserves (s : State) (p : PNum) : Nat :=
  total fun q => if q ≠ p && (s.part q).isOpen then (s.part q).reserve else 0

/-- R106: partition `p` may be granted a buffer. A CLOSED partition has no reserve and no limit in the pool (R104;
DEDUCED, notes/assumptions/21.md). -/
def State.eligibleForBuffer (s : State) (p : PNum) : Bool :=
  let x := s.part p
  x.isOpen && (decide (x.held < x.reserve) || (decide (x.held < x.limit) && decide (0 < s.sharedFree)))

/-- The lowest-numbered free buffer (R102). -/
def State.freeBuffer (s : State) : Option BNum := lowest fun b => (s.buffer b).owner.isNone

/-- R103: buffer `b` is granted to slot `i` of partition `p`. -/
def State.grantBuffer (s : State) (b : BNum) (i : SNum) (p : PNum) : State :=
  ((s.withBuffer b fun x => { x with owner := some i }).withPool fun q => { q with free := q.free - 1 }).withPart p
    fun x => { x with held := x.held + 1 }

/-- R103: buffer `b` is given back by partition `p` and is free. -/
def State.freeUp (s : State) (b : BNum) (p : PNum) : State :=
  ((s.withBuffer b fun x => { x with owner := none }).withPool fun q => { q with free := q.free + 1 }).withPart p
    fun x => { x with held := x.held - 1 }

/-- The partitions in the arbiter's order: pointer + 1, pointer + 2 and so on, modulo 16 (R57, R111). -/
def roundRobin (pointer : PNum) : List PNum := (List.range 16).map fun k => ⟨(pointer.val + 1 + k) % 16, by omega⟩

/-- The oldest requester of partition `p` (R111). -/
def Pool.oldest (q : Pool) (p : PNum) : Option SNum :=
  (q.waiting.find? fun w => decide (w.2 = p)).map Prod.fst

/-- R111, step 1: the first partition in the order with a requester that is eligible, and its oldest
requester. -/
def State.arbiterPick (s : State) : Option (PNum × SNum) :=
  (roundRobin s.pool.pointer).findSome? fun p =>
    match s.pool.oldest p with
    | some i => if s.eligibleForBuffer p then some (p, i) else none
    | none => none

/-- The slot leaves the waiting list (R108). -/
def State.leaveWaiting (s : State) (i : SNum) : State :=
  s.withPool fun q => { q with waiting := q.waiting.filter fun w => decide (w.1 ≠ i) }

/-- R111, step 2: buffer `b` goes to the requester; the pointer is set to its partition. -/
def State.arbiterGrant (s : State) (b : BNum) (p : PNum) (i : SNum) : State :=
  ((s.leaveWaiting i).withPool fun q => { q with pointer := p }).grantBuffer b i p

/-- R111: a released buffer is offered to the waiting list; the slot it goes to, if any. -/
def State.releaseBuffer (s : State) (b : BNum) (p : PNum) : State × Option SNum :=
  let s := s.freeUp b p
  match s.arbiterPick with
  | some (q, i) => (s.arbiterGrant b q i, some i)
  | none => (s, none)

/-- R112: a pass over the free buffers; the grants it makes, in order. All grants of the pass are made before the first
granted slot starts its chunk (DESIGN CHOICE, notes/assumptions/29.md). The first argument bounds the pass: one grant for
each of the 128 buffers. -/
def State.arbiterPass : Nat → State → State × List (SNum × BNum)
  | 0, s => (s, [])
  | n + 1, s =>
    match s.arbiterPick, s.freeBuffer with
    | some (p, i), some b =>
      let r := State.arbiterPass n (s.arbiterGrant b p i)
      (r.1, (i, b) :: r.2)
    | _, _ => (s, [])

/-- The partitions whose entries a search of the arbiter reads: in its order, those with a requester, up to the first
that is eligible (R106, R111). -/
def State.arbiterReads (s : State) : List PNum :=
  upTo s.eligibleForBuffer ((roundRobin s.pool.pointer).filter fun p => (s.pool.oldest p).isSome)

/-- The slot that a search of the arbiter picks. -/
def State.pickedSlot (s : State) : List SNum := (s.arbiterPick.map Prod.snd).toList

/-- The slots and partitions that a pass reads (R112). -/
def State.passReads : Nat → State → List SNum × List PNum
  | 0, _ => ([], [])
  | n + 1, s =>
    match s.arbiterPick, s.freeBuffer with
    | some (p, i), some b =>
      let r := State.passReads n (s.arbiterGrant b p i)
      (i :: r.1, s.arbiterReads ++ r.2)
    | _, _ => ([], s.arbiterReads)

/-- R117: the watermark state after a value of shared free, and the event of its transition. -/
def watermarkStep (low : Bool) (watermark sharedFree : Nat) : Bool × Option Event :=
  if low then
    if watermark = 0 || decide (watermark ≤ sharedFree) then (false, some (.poolRecovered sharedFree)) else (true, none)
  else if decide (watermark ≠ 0) && decide (sharedFree < watermark) then (true, some (.poolLow sharedFree))
  else (false, none)

/-- R117, R118: the watermark state is re-evaluated on shared free as it stands. -/
def State.evalWatermark (s : State) : State :=
  let r := watermarkStep s.pool.low s.pool.watermark s.sharedFree
  let s := s.withPool fun q => { q with low := r.1 }
  match r.2 with
  | some e => s.handOver e
  | none => s

/-- R117: a step that has changed shared free re-evaluates the watermark state, except in HALTED (R119). -/
def State.reevaluate (before : Nat) (s : State) : State :=
  if s.halted || decide (s.sharedFree = before) then s else s.evalWatermark

/-- R100, R119: at a function reset every buffer is free; contents are left as they stand. -/
def Pool.functionReset (q : Pool) : Pool :=
  { buffers := mapTab (fun _ b => { b with owner := none }) q.buffers, free := 128, waiting := [], pointer := 15,
    watermark := Config.defaultWatermark, low := false }

end Sys2Proof.Machine
end

