-- ==== Sys2Proof/Machine/Engine.lean ====
section
/-! DEFINITION. The Transfer Engine and what follows from it inside one step (chapter 5): the inner events of a
step are worked off one by one, each of them taken with the events it brings about before the next. -/

namespace Sys2Proof.Machine

/-- The inner events of a step. -/
inductive Work where
  /-- R77, R78: member `current` of the slot starts. -/
  | startMember (i : SNum)
  /-- R81: the slot starts chunks. -/
  | startChunks (i : SNum)
  /-- R82: the chunk whose turn to write has come writes. -/
  | turn (i : SNum)
  /-- R88, items 4 and 5: a context of the slot has been freed. -/
  | afterEnd (i : SNum)
  /-- R111: a buffer is released by a partition. -/
  | release (b : BNum) (p : PNum)
  /-- R93: the arbiter has granted a buffer to the waiting slot. -/
  | grant (i : SNum) (b : BNum)
  /-- R112. -/
  | pass
  /-- R91: the running member fails. -/
  | fail (i : SNum) (status : Status) (detail : Nat)
  /-- R90, R92, R95: the member ends. -/
  | endMember (i : SNum)
  /-- R97: the group is answered. -/
  | post (i : SNum) (v : Verdict)
  /-- R98: the slot's completion write has been issued. -/
  | completionIssued (i : SNum)
  /-- R98: the slot is released if both its steps have been taken. -/
  | release98 (i : SNum)
  /-- R65: a barrier group of the partition that waits may run. -/
  | barrier (p : PNum)
  /-- R63, R64: the slot returns to FREE without a group. -/
  | returnSlot (i : SNum)
  /-- R40: the partition's closing ends. -/
  | endClosing (p : PNum)
  /-- R40, item 5: a deferred close is answered. -/
  | answerClose (p : PNum)
  /-- R94: the slot takes its abort request. -/
  | abort (i : SNum)
  /-- R46: the partition faults. -/
  | fault (p : PNum) (cause : FaultCause)
  /-- R46: the fault is reported, and a pending quiesce is answered. -/
  | reportFault (p : PNum) (cause : FaultCause)
  deriving DecidableEq, Repr

/-- A state and the inner events that follow. -/
abbrev Inner := State × List Work

/-! ### Chunks -/

/-- The record of the slot's current member. -/
def Slot.member (x : Slot) : Option SubRecord := x.members[x.current]?

/-- The operation of the slot's current member. -/
def Slot.op (x : Slot) : Option Op := x.member.bind opOf

/-- The slot runs a member that has neither failed nor been aborted (R81, condition 3). -/
def Slot.live (x : Slot) : Bool := decide (x.st = .running) && x.verdict.isNone && x.abort.isNone

/-- The chunk context of chunk `k` (R80). -/
def Slot.chunk (x : Slot) (k : Nat) : Option ChunkCtx := x.chunks.find? fun c => decide (c.chunk = k)

/-- The context of chunk `k` changed by `f`. -/
def Slot.changeChunk (x : Slot) (k : Nat) (f : ChunkCtx → ChunkCtx) : Slot :=
  { x with chunks := x.chunks.map fun c => if c.chunk = k then f c else c }

/-- The context of chunk `k` freed. -/
def Slot.dropChunk (x : Slot) (k : Nat) : Slot := { x with chunks := x.chunks.filter fun c => decide (c.chunk ≠ k) }

/-- The card address of chunk `k` within a translated range (R16). -/
def CardRange.at (r : CardRange) (k : Nat) : Nat := r.base + Config.chunkSize * k

/-- The lowest chunk that has neither issued its write nor ended: the one whose turn it is (R82). Contexts stand
in chunk order. -/
def Slot.inTurn (x : Slot) : Option ChunkCtx := x.chunks.find? fun c => decide (c.phase ≠ .writing)

/-- R22, R23: a card access of a chunk is presented to the Fence Unit: refused with the fence number, or issued
with its record. -/
def State.presentAccess (s : State) (i : SNum) (k base len : Nat) (write : Option (List Byte)) : Except FNum State :=
  match s.fenceHit base len with
  | some f => .error f
  | none => .ok (s.issueAccess i k base len write)

/-- The context of a chunk that has just started (R80). -/
def newChunk (k size : Nat) (phase : Phase) (buffer : Option BNum) (requests : Nat) : ChunkCtx :=
  { chunk := k, size, phase, buffer, requests, part := none, discard := false }

/-- R83 to R87: chunk `next` of the slot's member starts, with its buffer if it needs one. A chunk whose first
card access a fence stops holds no read and no write, and fails FENCED. -/
def State.startChunk (s : State) (i : SNum) (c : MemberCtx) (r : SubRecord) (op : Op) (buffer : Option BNum) : Inner :=
  let k := c.next
  let size := chunkLen r.length.toNat k
  let add (s : State) (phase : Phase) (requests : Nat) : State :=
    s.withSlot i fun x => { x with chunks := x.chunks ++ [newChunk k size phase buffer requests],
                                   ctx := some { c with next := k + 1 } }
  let access (range : Option CardRange) (phase : Phase) (write : Option (List Byte)) : Inner :=
    match range with
    | none => (s, [])
    | some range =>
      match s.presentAccess i k (range.at k) size write with
      | .error f => (add s .held 0, [.fail i .fenced f.val])
      | .ok s => (add s phase 0, [.startChunks i])
  match op with
  | .mark => (s, [])
  | .copyIn =>
    let addr := r.hostAddr + BitVec.ofNat 64 (Config.chunkSize * k)
    ((add s .reading (readRequests (.copyIn i k) addr size).length).askRead (.copyIn i k) addr size, [.startChunks i])
  | .copyOut => access c.primary .reading none
  | .move => access c.secondary .reading none
  | .fill => access c.primary .writing (some (fillData r size))
  | .digest => access c.primary .reading none

/-- R93, R108: the slot enters WAIT_BUFFER and joins the waiting list, and the partition counts a wait. -/
def State.waitForBuffer (s : State) (i : SNum) (p : PNum) : State :=
  ((s.withSlot i fun x => { x with st := .waitBuffer }).withPool fun q => { q with waiting := q.waiting ++ [(i, p)] }).withPart
    p fun x => { x with bufferWaits := countUp x.bufferWaits }

/-- R81, conditions 1 to 3: the slot may start its next chunk. -/
def Slot.mayStart (x : Slot) (c : MemberCtx) : Bool :=
  x.live && decide (x.chunks.length < Config.chunkContexts) && decide (c.next < c.count)

/-- R81, R107: the slot starts its next chunk if it may; a refused request ends the starting of chunks. -/
def State.startChunks (s : State) (i : SNum) : Inner :=
  let x := s.slot i
  match x.ctx, x.member, x.op with
  | some c, some r, some op =>
    if x.mayStart c then
      if op.needsBuffer then
        if s.eligibleForBuffer x.partition then
          match s.freeBuffer with
          | some b => (s.grantBuffer b i x.partition).startChunk i c r op (some b)
          | none => (s, [])
        else if x.chunks.isEmpty then (s.waitForBuffer i x.partition, [])
        else (s, [])
      else s.startChunk i c r op none
    else (s, [])
  | _, _, _ => (s, [])

/-- R93: the waiting slot returns to RUNNING and starts chunk `next` with the buffer it was granted. -/
def State.takeGrant (s : State) (i : SNum) (b : BNum) : Inner :=
  let x := s.slot i
  match x.ctx, x.member, x.op with
  | some c, some r, some op =>
    if x.st = .waitBuffer then (s.withSlot i fun x => { x with st := .running }).startChunk i c r op (some b) else (s, [])
  | _, _, _ => (s, [])

/-- The release of a context's buffer, if it has one (R88, item 1). -/
def bufferRelease (p : PNum) (c : ChunkCtx) : List Work :=
  match c.buffer with
  | some b => [.release b p]
  | none => []

/-- R89: chunk `k` of the slot's member counts as done. -/
def Slot.countDone (x : Slot) (k : Nat) : Slot :=
  match x.ctx, x.member with
  | some c, some r =>
    let c' := c.chunkDone k
    { x with ctx := some c',
             bytesDone := x.bytesDone + (runBytes r.length.toNat c'.doneChunks - runBytes r.length.toNat c.doneChunks) }
  | _, _ => x

/-- The slot has a chunk that could start and a HELD chunk whose turn has come: the two may be taken in either
order (R82, R88). -/
def Slot.startMeetsTurn (x : Slot) : Bool :=
  match x.ctx, x.inTurn with
  | some c, some t => x.live && decide (c.next < c.count) && decide (t.phase = .held)
  | _, _ => false

/-- R88: chunk `k` ends: its buffer is released, its context is freed, it counts as done if `counted`, and the
member goes on. -/
def State.endChunk (s : State) (i : SNum) (k : Nat) (counted : Bool) : Inner :=
  let x := s.slot i
  match x.chunk k with
  | none => (s, [])
  | some c =>
    let s := s.withSlot i fun x => (if counted then x.countDone k else x).dropChunk k
    let out := bufferRelease x.partition c
    if (s.slot i).startMeetsTurn then
      if s.drawFirst then (s.drawn, out ++ [.turn i, .afterEnd i]) else (s.drawn, out ++ [.afterEnd i, .turn i])
    else (s, out ++ [.afterEnd i, .turn i])

/-- R84, R181: the COPY_OUT chunk hands its data over as a posted write and ends. -/
def State.handOverChunk (s : State) (i : SNum) (r : SubRecord) (c : ChunkCtx) : Inner :=
  let data := match c.buffer with
    | some b => (s.buffer b).data.take c.size
    | none => []
  (s.postWrite { kind := .data, addr := r.hostAddr + BitVec.ofNat 64 (Config.chunkSize * c.chunk), bytes := data }).endChunk i
    c.chunk true

/-- R83, R85: the HELD chunk's card write is presented to the Fence Unit and issued from its buffer. -/
def State.writeChunk (s : State) (i : SNum) (m : MemberCtx) (c : ChunkCtx) : Inner :=
  let data := match c.buffer with
    | some b => (s.buffer b).data.take c.size
    | none => []
  match m.primary with
  | none => (s, [])
  | some range =>
    match s.presentAccess i c.chunk (range.at c.chunk) c.size (some data) with
    | .error f => (s, [.fail i .fenced f.val])
    | .ok s => (s.withSlot i fun x => x.changeChunk c.chunk fun c => { c with phase := .writing }, [.turn i])

/-- R87: the DIGEST chunk's partial value enters the member's CRC register, and the chunk ends. -/
def State.enterCrc (s : State) (i : SNum) (m : MemberCtx) (c : ChunkCtx) : Inner :=
  (s.withSlot i fun x => { x with ctx := some { m with crc := crcEnter m.crc c.size (c.part.getD 0) } }).endChunk i c.chunk true

/-- R82: the turn of the slot's lowest chunk that has not written: a HELD chunk writes, hands over or enters the
CRC; a COPY_OUT chunk that finds no data place waits for one (R181). -/
def State.takeTurn (s : State) (i : SNum) : Inner :=
  let x := s.slot i
  match x.ctx, x.member, x.op, x.inTurn with
  | some m, some r, some op, some c =>
    if x.live && decide (c.phase = .held) then
      match op with
      | .copyIn | .move => s.writeChunk i m c
      | .digest => s.enterCrc i m c
      | .copyOut =>
        if s.link.placeWaiters.contains i then (s, [])
        else if s.link.placesUsed < Config.dataPlaces then s.handOverChunk i r c
        else (s.withLink fun l => { l with placeWaiters := l.placeWaiters ++ [i] }, [])
      | .mark | .fill => (s, [])
    else (s, [])
  | _, _, _, _ => (s, [])

/-- R88, items 4 and 5: the member ends, or the slot starts new chunks. -/
def State.afterEnd (s : State) (i : SNum) : Inner :=
  let x := s.slot i
  match x.ctx with
  | none => (s, [])
  | some c =>
    if x.st = .draining then (s, if x.chunks.isEmpty then [.endMember i] else [])
    else if x.live then
      (s, if x.chunks.isEmpty && decide (c.count ≤ c.next) then [.endMember i] else [.startChunks i])
    else (s, [])

/-! ### Members -/

/-- R77, R78, R79: member `current` starts: it fails, or takes its references and its context and goes on. -/
def State.startMember (s : State) (i : SNum) : Inner :=
  let x := s.slot i
  match x.member with
  | none => (s, [])
  | some r =>
    if x.live then
      match s.startCheck x.partition r with
      | .error e => (s, [.fail i e.1 e.2])
      | .ok t =>
        let s := (s.takeRefs t.refs).withSlot i fun x => { x with ctx := some (memberCtx r t) }
        (s, if t.op = .mark then [.endMember i] else [.startChunks i])
    else (s, [])

/-- R91: the context when its member is cut: its unissued requests are taken off, and a read still outstanding
will be discarded. -/
def ChunkCtx.cut (unissued : Nat) (c : ChunkCtx) : ChunkCtx :=
  if c.phase = .reading then { c with requests := c.requests - unissued, discard := true } else c

/-- R91: the context is freed at once when its member is cut: a HELD one, and a COPY_IN one with no read left. -/
def ChunkCtx.freedByCut (copyIn : Bool) (c : ChunkCtx) : Bool :=
  decide (c.phase = .held) || (decide (c.phase = .reading) && copyIn && decide (c.requests = 0))

/-- R91, R95: no further chunk starts and no further write is issued; HELD contexts are freed, READING contexts
wait for their reads, WRITING contexts run to their end. The member ends when no context is left. -/
def State.cutMember (s : State) (i : SNum) : Inner :=
  let x := s.slot i
  let copyIn := decide (x.op = some .copyIn)
  let all := x.chunks.map fun c => c.cut (s.unissued i c.chunk)
  let kept := all.filter fun c => !c.freedByCut copyIn
  let freed := all.filter fun c => c.freedByCut copyIn
  let s := (s.withdrawReads i).withLink fun l => { l with placeWaiters := l.placeWaiters.filter fun j => decide (j ≠ i) }
  let s := s.withSlot i fun x => { x with chunks := kept, st := if kept.isEmpty then x.st else .draining }
  (s, freed.flatMap (bufferRelease x.partition) ++ (if kept.isEmpty then [.endMember i] else []))

/-- R91: the first failure of a member, in a slot with no abort requested, fixes the group's outcome. -/
def State.failMember (s : State) (i : SNum) (status : Status) (detail : Nat) : Inner :=
  let x := s.slot i
  if x.live then
    (s.withSlot i fun x => { x with verdict := some { status, detail, failedMember := x.current } }).cutMember i
  else (s, [])

/-- R90, R92, R95, R96: the member ends: its references are released and its context is dropped. A failed group
is answered with its failure and an aborted one with ABORTED; otherwise the next member starts, or the group
ends OK. -/
def State.endMember (s : State) (i : SNum) : Inner :=
  let x := s.slot i
  let refs := match x.ctx with
    | some c => c.refs
    | none => []
  let s := s.dropRefs refs
  let s := s.withSlot i fun x => { x with ctx := none }
  match x.verdict, x.abort with
  | some v, _ => (s, [.post i v])
  | none, some d => (s, [.post i { status := .aborted, detail := d.code, failedMember := x.current }])
  | none, none =>
    let s := match x.ctx with
      | some c => if x.op = some .digest then s.withSlot i fun x => { x with digest := some (crcFinal c.crc) } else s
      | none => s
    if x.current + 1 < x.members.length then
      (s.withSlot i fun x => { x with current := x.current + 1 }, [.startMember i])
    else (s, [.post i { status := .ok, detail := 0, failedMember := 0 }])

/-! ### Posting, release, and the partition's states -/

/-- The only occupied slot of `p`, if it has just one (R65). -/
def State.alone (s : State) (p : PNum) : List SNum :=
  match s.slotsOf p with
  | [i] => [i]
  | _ => []

/-- R65: the barrier group of `p` that waits in WAIT_ORDER as the partition's only occupied slot goes RUNNING. -/
def State.barrierRelease (s : State) (p : PNum) : Inner :=
  match s.alone p with
  | [i] =>
    let x := s.slot i
    if x.st = .waitOrder ∧ x.abort = none then (s.withSlot i fun x => { x with st := .running }, [.startMember i]) else (s, [])
  | _ => (s, [])

/-- R42, R37, R40, R65: the slot returns to FREE and slots_held falls; the last slot of a QUIESCING or CLOSING
partition ends its quiesce or its closing. -/
def State.freeSlot (s : State) (i : SNum) : Inner :=
  let p := (s.slot i).partition
  let s := (s.withSlot i fun _ => Slot.free).withPart p fun y => { y with slotsHeld := y.slotsHeld - 1 }
  let y := s.part p
  if y.slotsHeld = 0 ∧ y.st = .quiescing then
    ((s.withPart p fun y => { y with st := .quiesced, pendingTag := none }).reportDeferred .partitionQuiesce p.val .ok, [])
  else if y.slotsHeld = 0 ∧ y.st = .closing then (s, [.endClosing p])
  else (s, [.barrier p])

/-- R98: the completion write of the group in slot `i` has been issued. -/
def State.completionIssued (s : State) (i : SNum) : Inner :=
  (s.withSlot i fun x => { x with posted := true }, [.release98 i])

/-- R98: a POSTING slot is released when its completion is issued or discarded and no error path step is due. -/
def State.tryRelease (s : State) (i : SNum) : Inner :=
  let x := s.slot i
  if x.st = .posting ∧ x.posted = true ∧ x.errorDue = false then s.freeSlot i else (s, [])

/-- R63, R64: a slot whose member 0 was never read returns to FREE without a completion record. -/
def State.returnSlot (s : State) (i : SNum) : Inner :=
  let p := (s.slot i).partition
  ((s.withAssembling p none).withPart p Partition.unreserve).freeSlot i

/-- R40: the closing ends: the reserve leaves the pool and the partition is CLOSED; an arbiter pass follows. -/
def State.endClosing (s : State) (p : PNum) : Inner :=
  (s.withPart p fun y => { y with st := .closed, pendingTag := none }, [.pass, .answerClose p])

/-- R40, item 5: a close that held a deferred table entry is answered, after the watermark has been
re-evaluated (R165). -/
def State.answerClose (s : State) (p : PNum) : State :=
  match s.deferredAt .partitionClose p.val with
  | none => s
  | some i =>
    let posts := match look s.admin.deferred i with
      | some d => d.post
      | none => false
    (if posts then s.evalWatermark else s).reportDeferred .partitionClose p.val .ok

/-- R94: slot `i` takes its abort request. -/
def State.takeAbort (s : State) (i : SNum) (d : AbortDetail) : Inner :=
  let x := s.slot i
  let aborted (k : Nat) : Verdict := { status := .aborted, detail := d.code, failedMember := k }
  match x.st with
  | .free | .draining | .posting => (s, [])
  | .assembling =>
    let s := (s.orphanReads i).withAssembling x.partition none
    if x.members.isEmpty then (s, [.returnSlot i]) else (s, [.post i (aborted 0)])
  | .waitOrder => (s, [.post i (aborted x.current)])
  | .waitBuffer => (s, [.endMember i])
  | .running => s.cutMember i

/-- R94: an abort request reaches every slot of a list: its detail is set if absent, and a waiting slot leaves
the waiting list (R93). -/
def State.requestAbort (s : State) (d : AbortDetail) : List SNum → State
  | [] => s
  | i :: rest =>
    ((s.withSlot i fun x => { x with abort := some (x.abort.getD d) }).leaveWaiting i).requestAbort d rest

/-- One abort round: every slot of the list has its request before any slot acts on it; the order in which they
act is free. -/
def State.abortRound (s : State) (d : AbortDetail) (l : List SNum) : Inner :=
  ((s.requestAbort d l).drawn, (s.abortOrder l).map Work.abort)

/-- R46, R48: a fault taken in OPEN, QUIESCING or QUIESCED moves the partition to FAULTED and aborts its slots;
in FAULTED and CLOSING it changes nothing. -/
def State.takeFault (s : State) (p : PNum) (cause : FaultCause) : Inner :=
  match (s.part p).st with
  | .opened | .quiescing | .quiesced =>
    let r := (s.withPart p fun y => { y with st := .faulted, faultCause := some cause }).abortRound .partitionFault (s.slotsOf p)
    (r.1, r.2 ++ [.reportFault p cause])
  | .closed | .faulted | .closing => (s, [])

/-- R46: the PARTITION_FAULT event is handed over, and a pending quiesce completes FAULTED. -/
def State.reportFault (s : State) (p : PNum) (cause : FaultCause) : State :=
  ((s.handOver (.partitionFault p cause)).reportDeferred .partitionQuiesce p.val .faulted).withPart p fun y =>
    { y with pendingTag := none }

/-! ### Working off the inner events -/

/-- The partition of slot `i`, whose entry the release of a buffer reads, if the slot holds a buffer (R103). -/
def State.holderOf (s : State) (i : SNum) : List PNum :=
  if (s.slot i).chunks.any fun c => c.buffer.isSome then [(s.slot i).partition] else []

/-- The partition of slot `i`, if the slot is about to ask the pool for a buffer (R81, R106). -/
def State.askerOf (s : State) (i : SNum) : List PNum :=
  let x := s.slot i
  match x.ctx, x.op with
  | some c, some op => if x.mayStart c && op.needsBuffer then [x.partition] else []
  | _, _ => []

/-- The slots that a fault of partition `p` would abort (R46). -/
def State.faultSlots (s : State) (p : PNum) : List SNum :=
  match (s.part p).st with
  | .opened | .quiescing | .quiesced => s.slotsOf p
  | .closed | .faulted | .closing => []

/-- What an inner event reads of the slot memory, the window table and the partition table (R6, R32, R74; which
reads an event makes is a DESIGN CHOICE, notes/assumptions/13.md). -/
def State.readsOf (s : State) : Work → List SNum × List WNum × List PNum
  | .startMember i => ([i], ((s.slot i).member.map startReads).getD [], [])
  | .startChunks i => ([i], [], s.askerOf i)
  | .afterEnd i | .grant i _ => ([i], [], [])
  | .turn i | .fail i _ _ | .abort i => ([i], [], s.holderOf i)
  | .endMember i => ([i], (((s.slot i).ctx.map MemberCtx.refs).getD []), [])
  | .post i _ | .completionIssued i | .release98 i | .returnSlot i => ([i], [], [(s.slot i).partition])
  | .barrier p => (s.alone p, [], [])
  | .endClosing p | .reportFault p _ => ([], [], [p])
  | .fault p _ => (s.faultSlots p, [], [p])
  | .release b p => ((s.freeUp b p).pickedSlot, [], p :: (s.freeUp b p).arbiterReads)
  | .pass => ((State.passReads 128 s).1, [], (State.passReads 128 s).2)
  | .answerClose _ => ([], [], [])

/-- One inner event, its table reads found good. The slots granted in a pass start their chunks after the whole pass, in
the order of the grants (DESIGN CHOICE, notes/assumptions/29.md). -/
def State.doWork (s : State) : Work → Inner
  | .startMember i => s.startMember i
  | .startChunks i => s.startChunks i
  | .turn i => s.takeTurn i
  | .afterEnd i => s.afterEnd i
  | .release b p =>
    let r := s.releaseBuffer b p
    (r.1, (r.2.map fun i => Work.grant i b).toList)
  | .grant i b => s.takeGrant i b
  | .pass =>
    let r := State.arbiterPass 128 s
    (r.1, r.2.map fun g => Work.grant g.1 g.2)
  | .fail i status detail => s.failMember i status detail
  | .endMember i => s.endMember i
  | .post i v => (s.postGroup i v, [.release98 i])
  | .completionIssued i => s.completionIssued i
  | .release98 i => s.tryRelease i
  | .barrier p => s.barrierRelease p
  | .returnSlot i => s.returnSlot i
  | .endClosing p => s.endClosing p
  | .answerClose p => (s.answerClose p, [])
  | .abort i => s.takeAbort i ((s.slot i).abort.getD .stop)
  | .fault p cause => s.takeFault p cause
  | .reportFault p cause => (s.reportFault p cause, [])

/-- R192: an inner event that finds a parity error is not carried out, and the device enters HALTED; in HALTED
no further inner event is taken. -/
def State.workStep (s : State) (w : Work) : Inner :=
  if s.halted then (s, [])
  else
    let r := s.readsOf w
    match s.parityError r.1 r.2.1 r.2.2 with
    | some c => (s.enterHalted c, [])
    | none => s.doWork w

/-- The inner events worked off, first to last, each with those it brings about before the next (DESIGN CHOICE,
notes/assumptions/9.md). The first argument bounds their number (notes/assumptions/12.md). -/
def State.settle : Nat → State → List Work → State
  | 0, s, _ => s
  | _ + 1, s, [] => s
  | n + 1, s, w :: rest =>
    let r := s.workStep w
    State.settle n r.1 (r.2 ++ rest)

/-- R191: the four conditions that end a stop; and R31: the stop leaves no SETTING entry behind it, so it also waits for
an entry of a locked list that still counts an access orphaned by a function reset (DEDUCED, notes/assumptions/25.md). -/
def State.stopDone (s : State) : Bool :=
  ((List.finRange 16).all fun p => decide ((s.part p).st = .closed))
    && !s.admin.readOutstanding && ((List.finRange 8).all fun i => (look s.admin.deferred i).isNone)
    && s.link.queue.isEmpty && ((List.finRange 64).all fun t => !(s.tag t).isBusy)
    && s.link.store.isEmpty && ((List.finRange 8).all fun f => decide ((s.fence f).st ≠ .setting))

/-- R191, R174: in the step in which the conditions first hold the device enters READY, and the admin channel is
NORMAL with no reservation. -/
def State.endStop (s : State) : State :=
  if s.stopping && s.stopDone then
    (s.withDevice fun d => { d with st := .ready }).withAdmin fun a =>
      { a with faulted := false, faultCause := none, reserved := 0 }
  else s

/-- A step's inner events worked off; then the watermark re-evaluated if the whole step has changed shared free
(R117; notes/assumptions/11.md), and the end of a stop taken if it has come. `before` is shared free at the step's start.
The pool's event is so handed over after every event and completion that the inner events hand over, where R118, R122 and
R149 let hand-overs of different blocks be taken in either order (DESIGN CHOICE, notes/assumptions/28.md). -/
def State.finish (s : State) (before : Nat) (ws : List Work) : State :=
  ((State.settle Config.innerBound s ws).reevaluate before).endStop

end Sys2Proof.Machine
end

