-- ==== Sys2Proof/Machine/CardAccess.lean ====
section
/-! DEFINITION. The ends of card accesses (R2 to R4), with what the Fence Unit (R27) and the Transfer Engine (R82 to
R88, R91, R92) do with them. -/

namespace Sys2Proof.Machine

/-- The card range of an access lies in the card address space (R1). -/
def CardOp.inSpace (o : CardOp) : Bool := decide (o.base + o.len ≤ Config.cardSpace)

/-- R2, R21, R27: access `id` has ended: the controller drops it, and the Fence Unit takes its end. -/
def State.endAccess (s : State) (id : Nat) : State := (s.withCard fun c => c.drop id).endRecord id

/-- An access end taken by the chunk that issued it. An access whose slot a reset has freed, and every access in
HALTED, is taken by the Fence Unit alone (R100, R101). -/
def State.endAtSlot (before : Nat) (s : State) (o : CardOp) (act : State → SNum → Nat → Inner) : State :=
  match o.owner with
  | none => s
  | some (i, k) =>
    if s.halted then s
    else match s.parityError [i] [] (s.holderOf i) with
      | some c => s.enterHalted c
      | none => (act s i k).1.finish before (act s i k).2

/-- R84, R85, R87: the data of a read pass to the chunk: into its buffer, or for a DIGEST into its partial value. -/
def State.takeReadData (s : State) (i : SNum) (k : Nat) (bytes : List Byte) : Inner :=
  match (s.slot i).chunk k with
  | none => (s, [])
  | some c =>
    if c.discard then s.endChunk i k false
    else
      let s := match c.buffer with
        | some b => s.withBuffer b fun x => { x with data := bytes ++ x.data.drop bytes.length }
        | none => s
      let part := if c.buffer.isNone then some (crcPart bytes) else none
      (s.withSlot i fun x => x.changeChunk k fun c => { c with phase := .held, part }, [.turn i])

/-- R3, R91, R92: a read ends with an ECC error: the chunk fails CARD_ECC with detail 0, or a discarded one is
freed. -/
def State.takeEccError (s : State) (i : SNum) (k : Nat) : Inner :=
  match (s.slot i).chunk k with
  | none => (s, [])
  | some c =>
    if c.discard then s.endChunk i k false
    else (s.withSlot i fun x => x.changeChunk k fun c => { c with phase := .held }, [.fail i .cardEcc 0])

/-- The outstanding access named `id`, if it is a read. -/
def State.cardRead (s : State) (id : Nat) : Option CardOp := (s.card.find id).filter fun o => o.write.isNone

/-- The outstanding access named `id`, if it is a write. -/
def State.cardWrite (s : State) (id : Nat) : Option CardOp := (s.card.find id).filter fun o => o.write.isSome

/-- R2: the read `o` has taken every word it touches. A scrub that runs has gone on before (R5). -/
def State.readTaken (s : State) (o : CardOp) : State :=
  let s := s.scrubOn
  s.withCardDraws (Card.finish ((s.card.find o.id).getD o) (fun _ => false) (wordsOf o.base o.len) (s.card, s.draws))

/-- R2, R4: the write `o` has been carried out on every word it touches. `badFirst` and `badLast` say what its merge
reads find in the first and the last word, where that word has not been reached before this step
(notes/assumptions/15.md). A scrub that runs has gone on before (R5). -/
def State.writeReached (s : State) (o : CardOp) (badFirst badLast : Bool) : State :=
  let words := wordsOf o.base o.len
  let bad (w : Nat) : Bool := (badFirst && decide (words.head? = some w)) || (badLast && decide (words.getLast? = some w))
  let s := s.scrubOn
  s.withCardDraws (Card.finish ((s.card.find o.id).getD o) bad words (s.card, s.draws))

/-- CARD_READ_DATA_RETURN (R2): the read ends with its data. A read that took a marked word ends with an ECC error
instead (R3; DEDUCED, notes/assumptions/15.md). With no such read outstanding nothing ends. -/
def execCardReadDataReturn (access : Nat) (s : State) : Host.Outcome State Fault Refusal :=
  match s.cardRead access with
  | none => .next s
  | some o =>
    if !o.inSpace then .fault .cardSpace
    else
      let t := s.readTaken o
      let o' := (t.card.find access).getD o
      let t := t.endAccess access
      .next ((t.endAtSlot s.sharedFree o fun s i k =>
        if o'.marked then s.takeEccError i k else s.takeReadData i k o'.data).endStop)

/-- CARD_READ_ECC_ERROR (R3): a word the read touches shows an uncorrectable error. -/
def execCardReadEccError (access : Nat) (s : State) : Host.Outcome State Fault Refusal :=
  match s.cardRead access with
  | none => .next s
  | some o => .next (((s.endAccess access).endAtSlot s.sharedFree o State.takeEccError).endStop)

/-- CARD_WRITE_ACKNOWLEDGE (R2, R4): the write has been carried out, and its chunk ends (R88). With no such write
outstanding nothing ends. -/
def execCardWriteAcknowledge (access : Nat) (badFirst badLast : Bool) (s : State) : Host.Outcome State Fault Refusal :=
  match s.cardWrite access with
  | none => .next s
  | some o =>
    if !o.inSpace then .fault .cardSpace
    else
      .next ((((s.writeReached o badFirst badLast).endAccess access).endAtSlot s.sharedFree o fun s i k =>
        s.endChunk i k true).endStop)

end Sys2Proof.Machine
end

