-- ==== Sys2Proof/Machine/Partitions.lean ====
section
/-! DEFINITION. What administrative commands do to the block that owns their object (chapters 1, 2, 3, 6, 7, 8 and
10): the first test of each, the entries it reads, and its effect once the first test has passed. -/

namespace Sys2Proof.Machine

/-- The answer of an owning block (R164): an immediate completion with status and detail, or a deferral. -/
inductive Reply where
  | done (status : AdminStatus) (detail : Nat)
  | deferred
  deriving DecidableEq, Repr

/-- The state, the inner events that follow, and the answer. -/
abbrev Effect := State × List Work × Reply

/-- A refusal changes nothing (R166). -/
def State.refuse (s : State) (status : AdminStatus) : Effect := (s, [], .done status 0)

/-- The command took effect and completes OK, after the inner events. -/
def State.accept (s : State) (ws : List Work) : Effect := (s, ws, .done .ok 0)

/-! ### Partition commands -/

/-- R34, test 1. -/
def openParamsOk (sqLog cqLog depth reserve limit : Nat) (sqBase cqBase : HostAddr) : Bool :=
  decide (4 ≤ sqLog ∧ sqLog ≤ 12 ∧ 4 ≤ cqLog ∧ cqLog ≤ 12) && decide (sqBase.toNat % Config.pageSize = 0)
    && decide (cqBase.toNat % Config.pageSize = 0) && decide (1 ≤ depth ∧ depth ≤ 16) && decide (reserve ≤ Config.reserveSum)
    && decide (1 ≤ limit ∧ limit ≤ 128) && decide (reserve ≤ limit)

/-- R35: the entry an accepted PARTITION_OPEN fills. -/
def Partition.opening (sqLog cqLog depth reserve limit : Nat) (sqBase cqBase : HostAddr) : Partition :=
  { st := .opened, sqBase, sqSize := 2 ^ sqLog, sqHead := 0, sqTail := 0, cqBase, cqSize := 2 ^ cqLog, cqTail := 0,
    cqHead := 0, cqPass := true, cqReserved := 0, depth, slotsHeld := 0, reserve, limit, held := 0,
    dispositions := Dispositions.default, groupsOk := 0, groupsFailed := 0, bytesMoved := 0, bufferWaits := 0,
    faultCause := none, pendingTag := none, parityOk := true }

/-- R34, R35: PARTITION_OPEN after its first test. -/
def State.openPartition (s : State) (p : PNum) (sqLog cqLog depth reserve limit : Nat) (sqBase cqBase : HostAddr) : Effect :=
  if (s.part p).st ≠ .closed then s.refuse .state
  else if s.sharedFree < reserve then s.refuse .poolBusy
  else if Config.reserveSum < s.otherReserves p + reserve then s.refuse .limit
  else (s.withPart p fun _ => Partition.opening sqLog cqLog depth reserve limit sqBase cqBase).accept []

/-- R36: PARTITION_QUIESCE. -/
def State.quiescePartition (s : State) (p : PNum) (tag : Tag) : Effect :=
  match (s.part p).st with
  | .opened =>
    if (s.part p).slotsHeld = 0 then (s.withPart p fun y => { y with st := .quiesced }).accept []
    else match s.deferredFree with
      | none => s.refuse .deferFull
      | some i =>
        ((s.withPart p fun y => { y with st := .quiescing, pendingTag := some tag }).takeDeferred i .partitionQuiesce tag
          p.val, [], .deferred)
  | .quiesced => s.accept []
  | .closed | .quiescing | .faulted | .closing => s.refuse .state

/-- R38: PARTITION_RESUME. -/
def State.resumePartition (s : State) (p : PNum) : Effect :=
  match (s.part p).st with
  | .quiesced => (s.withPart p fun y => { y with st := .opened }).accept []
  | .quiescing =>
    ((s.withPart p fun y => { y with st := .opened, pendingTag := none }).reportDeferred .partitionQuiesce p.val
      .cancelled).accept []
  | .closed | .opened | .faulted | .closing => s.refuse .state

/-- R169: a close takes over entry `i` of the pending quiesce, which is answered SUPERSEDED. -/
def State.supersede (s : State) (i : Fin 8) (d : Deferred) (tag : Tag) (p : PNum) : State :=
  (if d.post then s.adminComplete d.op.code d.tag .superseded 0 else s).setDeferred i
    (some { op := .partitionClose, tag, object := p.val, post := true, report := none })

/-- R39: the partition enters CLOSING for a PARTITION_CLOSE that waits in the deferred table. -/
def State.enterClosing (s : State) (p : PNum) (tag : Tag) : Effect :=
  let r := ((s.withPart p fun y => { y with st := .closing, pendingTag := some tag }).closeWindows p).abortRound
    .partitionClose (s.slotsOf p)
  (r.1, r.2, .deferred)

/-- R39, R40: PARTITION_CLOSE. -/
def State.closePartition (s : State) (p : PNum) (tag : Tag) : Effect :=
  let y := s.part p
  if y.st = .closed ∨ y.st = .closing then s.refuse .state
  else
    let taken := if y.st = .quiescing then s.deferredAt .partitionQuiesce p.val else none
    if y.slotsHeld = 0 then
      ((s.reportDeferred .partitionQuiesce p.val .superseded).closeWindows p).accept [.endClosing p]
    else match taken.bind fun i => (look s.admin.deferred i).map fun d => (i, d) with
      | some (i, d) => (s.supersede i d tag p).enterClosing p tag
      | none =>
        match s.deferredFree with
        | none => s.refuse .deferFull
        | some i => (s.takeDeferred i .partitionClose tag p.val).enterClosing p tag

/-- R50: the four counters at 0. -/
def Partition.cleared (x : Partition) : Partition :=
  { x with groupsOk := 0, groupsFailed := 0, bytesMoved := 0, bufferWaits := 0 }

/-- R50: REPORT_COUNTERS after its first test. -/
def State.reportCounters (s : State) (p : PNum) (clear : Bool) (address : HostAddr) : Effect :=
  let y := s.part p
  if y.st = .closed then s.refuse .state
  else
    ((s.postWrite { kind := .counterReport, addr := address, bytes := reportBytes p y }).withPart p fun y =>
      if clear then y.cleared else y).accept []

/-- Class codes (R198, R200). -/
def classOfCode (n : Nat) : Option ErrorClass :=
  match n with
  | 1 => some .window
  | 2 => some .fenced
  | 3 => some .hostRead
  | 4 => some .cardEcc
  | 5 => some .malformed
  | _ => none

/-- Disposition codes (R198). -/
def dispositionOfCode (n : Nat) : Option Disposition :=
  match n with
  | 0 => some .report
  | 1 => some .reportEvent
  | 2 => some .halt
  | _ => none

/-- R147: the disposition for one class replaced. -/
def Dispositions.set (d : Dispositions) (c : ErrorClass) (v : Disposition) : Dispositions :=
  match c with
  | .window => { d with window := v }
  | .fenced => { d with fenced := v }
  | .hostRead => { d with hostRead := v }
  | .cardEcc => { d with cardEcc := v }
  | .malformed => { d with malformed := v }

/-- R144: the disposition for a class. -/
def Dispositions.of (d : Dispositions) : ErrorClass → Disposition
  | .window => d.window
  | .fenced => d.fenced
  | .hostRead => d.hostRead
  | .cardEcc => d.cardEcc
  | .malformed => d.malformed

/-- R147: DISPOSITION_SET after its first test. -/
def State.setDisposition (s : State) (p : PNum) (c : ErrorClass) (v : Disposition) : Effect :=
  if (s.part p).st = .closed then s.refuse .state
  else (s.withPart p fun y => { y with dispositions := y.dispositions.set c v }).accept []

/-! ### Window commands -/

/-- R7, R8, R9: WINDOW_OPEN after its first test. -/
def State.openWindow (s : State) (w : WNum) (owner : PNum) (base length : Nat) (access : Access) : Effect :=
  if (s.window w).st ≠ .free then s.refuse .state
  else if (s.part owner).st ≠ .opened ∧ (s.part owner).st ≠ .quiesced then s.refuse .state
  else if Config.windowAllowance ≤ s.windowsOwned owner then s.refuse .limit
  else match s.conflict owner base length access with
    | some v => (s, [], .done .overlap v.val)
    | none => (s.withWindow w fun _ => Window.fresh owner base length access).accept []

/-- R10: WINDOW_LOCK. -/
def State.lockWindow (s : State) (w : WNum) : Effect :=
  if (s.window w).st = .opened then (s.withWindow w fun x => { x with st := .locked }).accept [] else s.refuse .state

/-- R11: WINDOW_CLOSE. -/
def State.closeWindow (s : State) (w : WNum) (tag : Tag) : Effect :=
  match (s.window w).st with
  | .free | .retiring => s.refuse .state
  | .locked => s.refuse .locked
  | .opened =>
    if (s.window w).refs = 0 then (s.withWindow w Window.freed).accept []
    else match s.deferredFree with
      | none => s.refuse .deferFull
      | some i =>
        ((s.withWindow w fun x => { x with st := .retiring, closeTag := some tag }).takeDeferred i .windowClose tag w.val,
          [], .deferred)

/-! ### Fence commands -/

/-- R25, R26: FENCE_SET after its first test. -/
def State.setFence (s : State) (f : FNum) (base length : Nat) (tag : Tag) : Effect :=
  if s.fences.locked then s.refuse .locked
  else if (s.fence f).st ≠ .empty then s.refuse .inUse
  else if (s.overlapping base length).isEmpty then (s.activateFence f base length).accept []
  else match s.deferredFree with
    | none => s.refuse .deferFull
    | some i => ((s.beginFence f base length tag).takeDeferred i .fenceSet tag f.val, [], .deferred)

/-- R28: FENCE_CLEAR after its first test. -/
def State.clearFence (s : State) (f : FNum) : Effect :=
  if s.fences.locked then s.refuse .locked
  else if (s.fence f).st = .active then (s.withFence f fun _ => Fence.empty).accept []
  else s.refuse .state

/-- R29: FENCE_LOCK. -/
def State.lockFences (s : State) : Effect := (s.withFences fun u => { u with locked := true }).accept []

/-! ### Pool commands -/

/-- R115, test 1. -/
def poolParamsOk (reserve limit : Nat) : Bool :=
  decide (reserve ≤ Config.reserveSum) && decide (1 ≤ limit ∧ limit ≤ 128) && decide (reserve ≤ limit)

/-- R115: POOL_SET after its first test. -/
def State.setPool (s : State) (p : PNum) (reserve limit : Nat) : Effect :=
  let y := s.part p
  if y.st ≠ .quiesced then s.refuse .state
  else if s.sharedFree + y.deficit < reserve then s.refuse .poolBusy
  else if Config.reserveSum < s.otherReserves p + reserve then s.refuse .limit
  else (s.withPart p fun y => { y with reserve, limit }).accept (if reserve < y.reserve then [.pass] else [])

/-- R116: POOL_WATERMARK after its first test. -/
def State.setWatermark (s : State) (watermark : Nat) : Effect :=
  ((s.withPool fun q => { q with watermark }).evalWatermark).accept []

/-! ### Vector, event ring and link commands -/

/-- R137. -/
def vectorParamsOk (enable threshold : Nat) (address : HostAddr) : Bool :=
  decide (enable ≤ 1) && decide (1 ≤ threshold ∧ threshold ≤ 64) && decide (address.toNat % 4 = 0)

/-- R138: VECTOR_SET after its tests. -/
def State.setVector (s : State) (v : VNum) (enable : Bool) (threshold holdoff : Nat) (address : HostAddr) (data : BitVec 32) :
    Effect :=
  (s.withVector v fun _ => MsgVector.configured enable threshold holdoff address data).accept []

/-- R180: LINK_SET after its test. -/
def State.setTimeout (s : State) (timeout : Nat) : Effect := (s.withLink fun l => { l with timeout }).accept []

end Sys2Proof.Machine
end

