-- ==== Sys2Proof/Machine/AdminCommands.lean ====
section
/-! DEFINITION. The administrative commands (chapter 9): a command read's return, the execution of the command, and
the rows of the table that name the commands. -/

namespace Sys2Proof.Machine

/-! ### Execution -/

/-- R164, item 1: sq_head advances and read_outstanding becomes no. -/
def State.commandRead (s : State) : State :=
  s.withAdmin fun a => { a with sqHead := ringNext a.sqHead a.sqSize, readOutstanding := false }

/-- R164, items 4 and 5: the effect with its inner events, the watermark (R117), its event after all that the inner events
hand over (DESIGN CHOICE, notes/assumptions/28.md), then the command's own completion (R165).
In HALTED nothing is handed over (DEDUCED, notes/assumptions/14.md). -/
def State.conclude (before opcode : Nat) (tag : Tag) (e : Effect) : State :=
  let s := (State.settle Config.innerBound e.1 e.2.1).reevaluate before
  match e.2.2 with
  | .deferred => s
  | .done status detail => if s.halted then s else s.adminComplete opcode tag status detail

/-- R164: a command refused BAD_PARAM, by item 3 or by its first test. -/
def State.badParam (s : State) (opcode : Nat) (tag : Tag) : State := s.commandRead.adminComplete opcode tag .badParam 0

/-- R164: a command is executed. `valid`: its reserved bytes are zero and its first test passes; `reads`: the parity
error that the table reads of its further tests and its effect find, which keeps it from being carried out (R192). -/
def State.execute (s : State) (opcode : Nat) (tag : Tag) (valid : Bool) (reads : State → Option HaltCause)
    (effect : State → Effect) : State :=
  if !valid then s.badParam opcode tag
  else match reads s with
    | some c => s.enterHalted c
    | none => State.conclude s.sharedFree opcode tag (effect s.commandRead)

/-- A command on partition `n`. -/
def State.executePart (s : State) (opcode : Nat) (tag : Tag) (valid : Bool) (n : BitVec 8)
    (reads : State → PNum → Option HaltCause) (effect : State → PNum → Effect) : State :=
  match asNum 16 n.toNat with
  | none => s.badParam opcode tag
  | some p => s.execute opcode tag valid (fun s => reads s p) fun s => effect s p

/-! ### Table reads (R6, R32, R74; notes/assumptions/13.md) -/

/-- The command reads no table entry. -/
def State.readNone (_ : State) : Option HaltCause := none

/-- The command reads the entry of its partition. -/
def State.readPart (s : State) (p : PNum) : Option HaltCause := s.parityError [] [] [p]

/-- The command reads the entry of its window. -/
def State.readWindow (s : State) (w : WNum) : Option HaltCause := s.parityError [] [w] []

/-- The entry of partition `p`, and every entry when the sum of the reserves is to be formed. -/
def State.readReserves (s : State) (p : PNum) (summed : Bool) : Option HaltCause :=
  s.readPart p <|> if summed then s.parityError [] [] (List.finRange 16) else none

/-- R34: PARTITION_OPEN reads its entry, and with test 4 the reserves of all. -/
def State.openReads (s : State) (p : PNum) (reserve : Nat) : Option HaltCause :=
  s.readReserves p (decide ((s.part p).st = .closed) && decide (reserve ≤ s.sharedFree))

/-- R115: POOL_SET reads its entry, and with test 4 the reserves of all. -/
def State.poolSetReads (s : State) (p : PNum) (reserve : Nat) : Option HaltCause :=
  s.readReserves p (decide ((s.part p).st = .quiesced) && decide (reserve ≤ s.sharedFree + (s.part p).deficit))

/-- R39: the tests of a PARTITION_CLOSE pass. -/
def State.closeAccepted (s : State) (p : PNum) : Bool :=
  let y := s.part p
  decide (y.st ≠ .closed ∧ y.st ≠ .closing)
    && (decide (y.slotsHeld = 0) || (decide (y.st = .quiescing) && (s.deferredAt .partitionQuiesce p.val).isSome)
      || s.deferredFree.isSome)

/-- R39, R12: PARTITION_CLOSE reads its entry, and when it is accepted every window and its occupied slots. -/
def State.closeReads (s : State) (p : PNum) : Option HaltCause :=
  s.readPart p <|> if s.closeAccepted p then s.parityError (s.slotsOf p) (List.finRange 64) [] else none

/-- R7: WINDOW_OPEN reads its window with test 2, its owner's entry with test 3, and every window with tests 4
and 5. -/
def State.windowOpenReads (s : State) (w : WNum) (owner : PNum) : Option HaltCause :=
  s.readWindow w <|> if (s.window w).st ≠ .free then none
    else s.readPart owner <|> if (s.part owner).st ≠ .opened ∧ (s.part owner).st ≠ .quiesced then none
      else s.parityError [] (List.finRange 64) []

/-! ### The commands -/

def State.runPartitionOpen (s : State) (tag : Tag) (rsv : Bool) (partition sqLog cqLog depth reserve limit : BitVec 8)
    (sqBase cqBase : HostAddr) : State :=
  s.executePart 0x01 tag
    (!rsv && openParamsOk sqLog.toNat cqLog.toNat depth.toNat reserve.toNat limit.toNat sqBase cqBase) partition
    (fun s p => s.openReads p reserve.toNat)
    fun s p => s.openPartition p sqLog.toNat cqLog.toNat depth.toNat reserve.toNat limit.toNat sqBase cqBase

def State.runPartitionQuiesce (s : State) (tag : Tag) (rsv : Bool) (partition : BitVec 8) : State :=
  s.executePart 0x02 tag (!rsv) partition State.readPart fun s p => s.quiescePartition p tag

def State.runPartitionResume (s : State) (tag : Tag) (rsv : Bool) (partition : BitVec 8) : State :=
  s.executePart 0x03 tag (!rsv) partition State.readPart fun s p => s.resumePartition p

def State.runPartitionClose (s : State) (tag : Tag) (rsv : Bool) (partition : BitVec 8) : State :=
  s.executePart 0x04 tag (!rsv) partition State.closeReads fun s p => s.closePartition p tag

def State.runReportCounters (s : State) (tag : Tag) (rsv : Bool) (partition clear : BitVec 8) (address : HostAddr) : State :=
  s.executePart 0x05 tag (!rsv && decide (clear.toNat ≤ 1) && decide (address.toNat % 32 = 0)) partition State.readPart
    fun s p => s.reportCounters p (decide (clear.toNat = 1)) address

def State.runDispositionSet (s : State) (tag : Tag) (rsv : Bool) (partition cls disposition : BitVec 8) : State :=
  match classOfCode cls.toNat, dispositionOfCode disposition.toNat with
  | some c, some v => s.executePart 0x06 tag (!rsv) partition State.readPart fun s p => s.setDisposition p c v
  | _, _ => s.badParam 0x06 tag

def State.runWindowOpen (s : State) (tag : Tag) (rsv : Bool) (window owner access : BitVec 8) (cardBase length : BitVec 64) :
    State :=
  match asNum 64 window.toNat, accessOfCode access.toNat with
  | some w, some a =>
    s.executePart 0x10 tag (!rsv && s.rangeOk cardBase.toNat length.toNat) owner
      (fun s p => s.windowOpenReads w p) fun s p => s.openWindow w p cardBase.toNat length.toNat a
  | _, _ => s.badParam 0x10 tag

/-- A command on window `n`. -/
def State.executeWindow (s : State) (opcode : Nat) (tag : Tag) (rsv : Bool) (n : BitVec 8) (effect : State → WNum → Effect) :
    State :=
  match asNum 64 n.toNat with
  | none => s.badParam opcode tag
  | some w => s.execute opcode tag (!rsv) (fun s => s.readWindow w) fun s => effect s w

def State.runWindowLock (s : State) (tag : Tag) (rsv : Bool) (window : BitVec 8) : State :=
  s.executeWindow 0x11 tag rsv window State.lockWindow

def State.runWindowClose (s : State) (tag : Tag) (rsv : Bool) (window : BitVec 8) : State :=
  s.executeWindow 0x12 tag rsv window fun s w => s.closeWindow w tag

/-- A command on fence `n`. -/
def State.executeFence (s : State) (opcode : Nat) (tag : Tag) (valid : Bool) (n : BitVec 8) (effect : State → FNum → Effect) :
    State :=
  match asNum 8 n.toNat with
  | none => s.badParam opcode tag
  | some f => s.execute opcode tag valid State.readNone fun s => effect s f

def State.runFenceSet (s : State) (tag : Tag) (rsv : Bool) (fence : BitVec 8) (cardBase length : BitVec 64) : State :=
  s.executeFence 0x18 tag (!rsv && s.rangeOk cardBase.toNat length.toNat) fence
    fun s f => s.setFence f cardBase.toNat length.toNat tag

def State.runFenceClear (s : State) (tag : Tag) (rsv : Bool) (fence : BitVec 8) : State :=
  s.executeFence 0x19 tag (!rsv) fence State.clearFence

def State.runFenceLock (s : State) (tag : Tag) (rsv : Bool) : State :=
  s.execute 0x1A tag (!rsv) State.readNone State.lockFences

def State.runPoolSet (s : State) (tag : Tag) (rsv : Bool) (partition reserve limit : BitVec 8) : State :=
  s.executePart 0x20 tag (!rsv && poolParamsOk reserve.toNat limit.toNat) partition
    (fun s p => s.poolSetReads p reserve.toNat) fun s p => s.setPool p reserve.toNat limit.toNat

def State.runPoolWatermark (s : State) (tag : Tag) (rsv : Bool) (watermark : BitVec 8) : State :=
  s.execute 0x21 tag (!rsv && decide (watermark.toNat ≤ 64)) State.readNone fun s => s.setWatermark watermark.toNat

def State.runVectorSet (s : State) (tag : Tag) (rsv : Bool) (vector enable threshold holdoff : BitVec 8) (address : HostAddr)
    (data : BitVec 32) : State :=
  match asNum 18 vector.toNat with
  | none => s.badParam 0x28 tag
  | some v =>
    s.execute 0x28 tag (!rsv && vectorParamsOk enable.toNat threshold.toNat address) State.readNone
      fun s => s.setVector v (decide (enable.toNat = 1)) threshold.toNat holdoff.toNat address data

def State.runEventRingSet (s : State) (tag : Tag) (rsv : Bool) (size : BitVec 16) (base : HostAddr) : State :=
  s.execute 0x30 tag (!rsv && eventRingParamsOk size.toNat base) State.readNone fun s => (s.setEventRing size.toNat base).accept []

def State.runLinkSet (s : State) (tag : Tag) (rsv : Bool) (timeout : BitVec 16) : State :=
  s.execute 0x38 tag (!rsv && decide (1 ≤ timeout.toNat ∧ timeout.toNat ≤ 255)) State.readNone fun s => s.setTimeout timeout.toNat

def State.runUnknownOpcode (s : State) (opcode : BitVec 8) (tag : Tag) : State :=
  s.commandRead.adminComplete opcode.toNat tag .unknownOpcode 0

/-- The execution of the command that a command read has returned; the other rows are no commands of the ring. -/
def State.runCommand (s : State) : Instr → State
  | .partitionOpen tag rsv p sl cl d r l sb cb => s.runPartitionOpen tag rsv p sl cl d r l sb cb
  | .partitionQuiesce tag rsv p => s.runPartitionQuiesce tag rsv p
  | .partitionResume tag rsv p => s.runPartitionResume tag rsv p
  | .partitionClose tag rsv p => s.runPartitionClose tag rsv p
  | .reportCounters tag rsv p c a => s.runReportCounters tag rsv p c a
  | .dispositionSet tag rsv p c d => s.runDispositionSet tag rsv p c d
  | .windowOpen tag rsv w o a b l => s.runWindowOpen tag rsv w o a b l
  | .windowLock tag rsv w => s.runWindowLock tag rsv w
  | .windowClose tag rsv w => s.runWindowClose tag rsv w
  | .fenceSet tag rsv f b l => s.runFenceSet tag rsv f b l
  | .fenceClear tag rsv f => s.runFenceClear tag rsv f
  | .fenceLock tag rsv => s.runFenceLock tag rsv
  | .poolSet tag rsv p r l => s.runPoolSet tag rsv p r l
  | .poolWatermark tag rsv w => s.runPoolWatermark tag rsv w
  | .vectorSet tag rsv v e n h a d => s.runVectorSet tag rsv v e n h a d
  | .eventRingSet tag rsv n b => s.runEventRingSet tag rsv n b
  | .linkSet tag rsv t => s.runLinkSet tag rsv t
  | .unknownOpcode op tag => s.runUnknownOpcode op tag
  | .powerOnReset _ | .busReset _ | .scrubComplete | .functionReset _ | .pcieFunctionLevelReset | .enableAttempt
  | .stop | .adminSqBaseWrite _ | .adminCqBaseWrite _ | .adminSizesWrite _ | .registerWriteIgnored _ _ _ | .statusRead
  | .notifySqTail _ _ | .notifyCqHead _ _ | .notifyAdminSqTail _ | .notifyAdminCqHead _ | .notifyEventRingHead _
  | .notifyBadSelector _ _ | .adminCommandReadIssue | .servePartition | .hostReadRequestIssue
  | .hostReadPartReturn _ _ _ | .hostReadErrorResponse _ | .hostReadTimeout _ | .tagQuarantineExpiry _
  | .cardReadDataReturn _ | .cardReadEccError _ | .cardWriteAcknowledge _ _ _ | .postedWriteIssue | .errorPathStep _
  | .holdoffExpiry _ => s

/-! ### The command read's return -/

/-- The command read that has been issued is a live one (R164): the channel is NORMAL and no stop has begun. -/
def State.commandLive (s : State) : Bool := s.running && !s.admin.faulted && s.admin.readOutstanding

/-- R172, R174: a command read that ends after a channel fault or after a stop has begun is discarded, which may
end the stop (R191). -/
def State.discardCommandRead (s : State) : State :=
  (s.withAdmin fun a => { a with readOutstanding := false }).endStop

/-- R164: the command read returns with data, and its command is executed by `run` or discarded. -/
def State.takeCommand (s : State) (run : State → State) : State :=
  if s.commandLive then run s else s.discardCommandRead

/-- The tag of the command read on the link. -/
def State.adminTag (s : State) : Option TNum :=
  lowest fun t => match s.onLink t with
    | some (q, _) => decide (q.requester = .admin)
    | none => false

/-- The step of an administrative command row: the command read on the link returns with this command (R178), its
tag becomes FREE, and the command is taken. With no command read on the link nothing returns (DEDUCED,
notes/assumptions/7.md). -/
def State.returnCommand (s : State) (run : State → State) : Host.Outcome State Fault Refusal :=
  match s.adminTag with
  | none => .next s
  | some t => .next ((s.withTag t fun _ => .free).takeCommand run)

/-! ### The rows -/

/-- PARTITION_OPEN (R34, R35). -/
def execPartitionOpen (tag : Tag) (rsv : Bool) (partition sqLog cqLog depth reserve limit : BitVec 8)
    (sqBase cqBase : HostAddr) (s : State) : Host.Outcome State Fault Refusal :=
  s.returnCommand fun s => s.runPartitionOpen tag rsv partition sqLog cqLog depth reserve limit sqBase cqBase

/-- PARTITION_QUIESCE (R36). -/
def execPartitionQuiesce (tag : Tag) (rsv : Bool) (partition : BitVec 8) (s : State) : Host.Outcome State Fault Refusal :=
  s.returnCommand fun s => s.runPartitionQuiesce tag rsv partition

/-- PARTITION_RESUME (R38). -/
def execPartitionResume (tag : Tag) (rsv : Bool) (partition : BitVec 8) (s : State) : Host.Outcome State Fault Refusal :=
  s.returnCommand fun s => s.runPartitionResume tag rsv partition

/-- PARTITION_CLOSE (R39). -/
def execPartitionClose (tag : Tag) (rsv : Bool) (partition : BitVec 8) (s : State) : Host.Outcome State Fault Refusal :=
  s.returnCommand fun s => s.runPartitionClose tag rsv partition

/-- REPORT_COUNTERS (R50). -/
def execReportCounters (tag : Tag) (rsv : Bool) (partition clear : BitVec 8) (address : HostAddr) (s : State) :
    Host.Outcome State Fault Refusal :=
  s.returnCommand fun s => s.runReportCounters tag rsv partition clear address

/-- DISPOSITION_SET (R147). -/
def execDispositionSet (tag : Tag) (rsv : Bool) (partition cls disposition : BitVec 8) (s : State) :
    Host.Outcome State Fault Refusal :=
  s.returnCommand fun s => s.runDispositionSet tag rsv partition cls disposition

/-- WINDOW_OPEN (R7 to R9). -/
def execWindowOpen (tag : Tag) (rsv : Bool) (window owner access : BitVec 8) (cardBase length : BitVec 64) (s : State) :
    Host.Outcome State Fault Refusal :=
  s.returnCommand fun s => s.runWindowOpen tag rsv window owner access cardBase length

/-- WINDOW_LOCK (R10). -/
def execWindowLock (tag : Tag) (rsv : Bool) (window : BitVec 8) (s : State) : Host.Outcome State Fault Refusal :=
  s.returnCommand fun s => s.runWindowLock tag rsv window

/-- WINDOW_CLOSE (R11). -/
def execWindowClose (tag : Tag) (rsv : Bool) (window : BitVec 8) (s : State) : Host.Outcome State Fault Refusal :=
  s.returnCommand fun s => s.runWindowClose tag rsv window

/-- FENCE_SET (R25, R26). -/
def execFenceSet (tag : Tag) (rsv : Bool) (fence : BitVec 8) (cardBase length : BitVec 64) (s : State) :
    Host.Outcome State Fault Refusal :=
  s.returnCommand fun s => s.runFenceSet tag rsv fence cardBase length

/-- FENCE_CLEAR (R28). -/
def execFenceClear (tag : Tag) (rsv : Bool) (fence : BitVec 8) (s : State) : Host.Outcome State Fault Refusal :=
  s.returnCommand fun s => s.runFenceClear tag rsv fence

/-- FENCE_LOCK (R29). -/
def execFenceLock (tag : Tag) (rsv : Bool) (s : State) : Host.Outcome State Fault Refusal :=
  s.returnCommand fun s => s.runFenceLock tag rsv

/-- POOL_SET (R115). -/
def execPoolSet (tag : Tag) (rsv : Bool) (partition reserve limit : BitVec 8) (s : State) : Host.Outcome State Fault Refusal :=
  s.returnCommand fun s => s.runPoolSet tag rsv partition reserve limit

/-- POOL_WATERMARK (R116). -/
def execPoolWatermark (tag : Tag) (rsv : Bool) (watermark : BitVec 8) (s : State) : Host.Outcome State Fault Refusal :=
  s.returnCommand fun s => s.runPoolWatermark tag rsv watermark

/-- VECTOR_SET (R137, R138). -/
def execVectorSet (tag : Tag) (rsv : Bool) (vector enable threshold holdoff : BitVec 8) (address : HostAddr) (data : BitVec 32)
    (s : State) : Host.Outcome State Fault Refusal :=
  s.returnCommand fun s => s.runVectorSet tag rsv vector enable threshold holdoff address data

/-- EVENT_RING_SET (R156). -/
def execEventRingSet (tag : Tag) (rsv : Bool) (size : BitVec 16) (base : HostAddr) (s : State) :
    Host.Outcome State Fault Refusal :=
  s.returnCommand fun s => s.runEventRingSet tag rsv size base

/-- LINK_SET (R180). -/
def execLinkSet (tag : Tag) (rsv : Bool) (timeout : BitVec 16) (s : State) : Host.Outcome State Fault Refusal :=
  s.returnCommand fun s => s.runLinkSet tag rsv timeout

/-- UNKNOWN_OPCODE (R164, item 2). -/
def execUnknownOpcode (opcode : BitVec 8) (tag : Tag) (s : State) : Host.Outcome State Fault Refusal :=
  s.returnCommand fun s => s.runUnknownOpcode opcode tag

end Sys2Proof.Machine
end

