-- ==== Sys2Proof/Machine/Notify.lean ====
section
/-! DEFINITION. The NOTIFY commands (R188): ring tails and heads that software writes, and what the owning block
does with each. -/

namespace Sys2Proof.Machine

/-! ### Record reads (R53, R58, R60) -/

/-- R53: the host address of the submission record at sq_head, modulo 2^64 where the ring runs past the last host
address (DESIGN CHOICE, notes/assumptions/26.md). -/
def Partition.recordAddr (x : Partition) : HostAddr := x.sqBase + BitVec.ofNat 64 (64 * x.sqHead)

/-- The read of the record at sq_head of partition `p` is issued for its ASSEMBLING slot `i`, which has read
`members` records. -/
def State.readRecord (s : State) (p : PNum) (i : SNum) (members : Nat) : State :=
  (s.withAssembling p (some { slot := i, membersRead := members, readOutstanding := true })).askRead (.record i)
    (s.part p).recordAddr 64

/-- R61: the ASSEMBLING slot of `p` that waits for a member goes on reading when a record is available and the
partition is OPEN or QUIESCING. -/
def State.resumeAssembly (s : State) (p : PNum) : State :=
  let y := s.part p
  match s.assembling p with
  | some a =>
    if (y.st = .opened ∨ y.st = .quiescing) ∧ a.readOutstanding = false ∧ y.sqHead ≠ y.sqTail then
      s.readRecord p a.slot a.membersRead
    else s
  | none => s

/-! ### Partition rings -/

/-- R43: a submission ring tail at the Partition Controller. -/
def State.takeSqTail (s : State) (p : PNum) (index : Nat) : Inner :=
  let y := s.part p
  let record (s : State) : State := s.withPart p fun y => { y with sqTail := index }
  match y.st with
  | .closed => (s.rejectNotify, [])
  | .opened | .quiescing | .quiesced =>
    if index < y.sqSize then ((record s).resumeAssembly p, []) else (s, [.fault p .sqIndex])
  | .faulted | .closing => (if index < y.sqSize then record s else s, [])

/-- R44: a completion ring head at the Partition Controller. -/
def State.takeCqHead (s : State) (p : PNum) (index : Nat) : Inner :=
  let y := s.part p
  let valid := headValid index y.cqHead y.cqTail y.cqSize
  let record (s : State) : State := (s.withPart p fun y => { y with cqHead := index }).consumeWrite (partVector p)
  match y.st with
  | .closed => (s.rejectNotify, [])
  | .opened | .quiescing | .quiesced => if valid then (record s, []) else (s, [.fault p .cqIndex])
  | .faulted | .closing => (if valid then record s else s, [])

/-- A NOTIFY handed to the Partition Controller, which reads the entry of partition `p` (R32, R188). -/
def State.notifyPart (s : State) (p : PNum) (act : State → Inner) : State :=
  if !s.running then s.rejectNotify
  else match s.parityError [] [] [p] with
    | some c => s.enterHalted c
    | none => (act s).1.finish s.sharedFree (act s).2

/-- NOTIFY_SQ_TAIL (R43). -/
def execNotifySqTail (p : PNum) (index : BitVec 16) (s : State) : Host.Outcome State Fault Refusal :=
  .next (s.notifyPart p fun s => s.takeSqTail p index.toNat)

/-- NOTIFY_CQ_HEAD (R44). -/
def execNotifyCqHead (p : PNum) (index : BitVec 16) (s : State) : Host.Outcome State Fault Refusal :=
  .next (s.notifyPart p fun s => s.takeCqHead p index.toNat)

/-! ### The administrative channel -/

/-- R171: a channel fault taken in NORMAL. In FAULTED it adds nothing (R172). -/
def State.channelFault (s : State) (c : ChannelFault) : State :=
  if s.admin.faulted then s
  else ((s.withAdmin fun a => { a with faulted := true, faultCause := some c }).discardAnswers).handOver (.adminFault c)

/-- R162: an admin submission ring tail at the Admin Engine. -/
def State.takeAdminTail (s : State) (index : Nat) : State :=
  if index < s.admin.sqSize then s.withAdmin fun a => { a with sqTail := index } else s.channelFault .sqIndex

/-- R170: an admin completion ring head at the Admin Engine. -/
def State.takeAdminHead (s : State) (index : Nat) : State :=
  if headValid index s.admin.cqHead s.poster.index s.admin.cqSize then
    (s.withAdmin fun a => { a with cqHead := index }).consumeWrite adminVector
  else s.channelFault .cqIndex

/-- NOTIFY_ADMIN_SQ_TAIL (R162). -/
def execNotifyAdminSqTail (index : BitVec 16) (s : State) : Host.Outcome State Fault Refusal :=
  .next (if s.running then s.takeAdminTail index.toNat else s.rejectNotify)

/-- NOTIFY_ADMIN_CQ_HEAD (R170). -/
def execNotifyAdminCqHead (index : BitVec 16) (s : State) : Host.Outcome State Fault Refusal :=
  .next (if s.running then s.takeAdminHead index.toNat else s.rejectNotify)

/-! ### The event ring and the other selectors -/

/-- NOTIFY_EVENT_RING_HEAD (R152). -/
def execNotifyEventRingHead (index : BitVec 16) (s : State) : Host.Outcome State Fault Refusal :=
  .next (if s.running then s.eventHead index.toNat else s.rejectNotify)

/-- NOTIFY_BAD_SELECTOR (R188). -/
def execNotifyBadSelector (_selector : BitVec 8) (_index : BitVec 16) (s : State) : Host.Outcome State Fault Refusal :=
  .next s.rejectNotify

end Sys2Proof.Machine
end

