-- ==== Sys2Proof/Machine/HostReads.lean ====
section
/-! DEFINITION. The steps that the part takes on its own to read host memory (R57, R58, R163, R177), and the ends of
host reads: data, error responses, timeouts and quarantines (R178, R179), with what each requester does (R60 to R64, R83, R91,
R161, R171). -/

namespace Sys2Proof.Machine

/-! ### Asking -/

/-- R163: the five conditions of a command read. -/
def State.mayReadCommand (s : State) : Bool :=
  s.running && !s.admin.faulted && !s.admin.readOutstanding && decide (s.admin.sqHead ≠ s.admin.sqTail)
    && decide (s.admin.reserved + s.adminUnconsumed + 1 < s.admin.cqSize)

/-- R161: the host address of the command at sq_head, modulo 2^64 where the ring runs past the last host address
(DESIGN CHOICE, notes/assumptions/26.md). -/
def Admin.commandAddr (a : Admin) : HostAddr := a.sqBase + BitVec.ofNat 64 (64 * a.sqHead)

/-- ADMIN_COMMAND_READ_ISSUE (R163). -/
def execAdminCommandReadIssue (s : State) : Host.Outcome State Fault Refusal :=
  .next
    (if s.mayReadCommand then
      (s.withAdmin fun a => { a with reserved := a.reserved + 1, readOutstanding := true }).askRead .admin
        s.admin.commandAddr 64
    else s)

/-- The completion records of partition `p` written and not consumed (R44, R59). -/
def Partition.unconsumed (x : Partition) : Nat := ringSpan x.cqTail x.cqHead x.cqSize

/-- R59: the completion ring has an unreserved entry. -/
def Partition.hasEntry (x : Partition) : Bool := decide (x.cqReserved + x.unconsumed + 1 < x.cqSize)

/-- The lowest-numbered FREE slot (R58). -/
def State.freeSlotNumber (s : State) : Option SNum := lowest fun i => decide ((s.slot i).st = .free)

/-- Some occupied slot of `p` holds a barrier group (R56, condition 5). -/
def State.barrierHeld (s : State) (p : PNum) : Bool := (s.slotsOf p).any fun i => (s.slot i).barrier

/-- R56: the conditions of eligibility that concern partition `p`: 2 to 6 and 8. -/
def State.eligible (s : State) (p : PNum) : Bool :=
  let y := s.part p
  decide (y.st = .opened) && decide (y.sqHead ≠ y.sqTail) && (s.assembling p).isNone && !s.barrierHeld p
    && decide (y.slotsHeld < y.depth) && y.hasEntry

/-- R58: partition `p` is served with slot `i`. -/
def State.serve (s : State) (p : PNum) (i : SNum) : State :=
  let y := s.part p
  let s := s.withSlot i fun _ => { Slot.free with st := .assembling, partition := p, firstIndex := y.sqHead }
  let s := s.withPart p fun y => { y with slotsHeld := y.slotsHeld + 1, cqReserved := y.cqReserved + 1 }
  (s.withSched fun c => { c with pointer := p }).readRecord p i 0

/-- R57: the partitions in the order of a choice, up to the first that is eligible or whose entry is bad. -/
def State.choice (s : State) : Option PNum :=
  (roundRobin s.sched.pointer).find? fun p => !(s.part p).parityOk || s.eligible p

/-- SERVE_PARTITION (R56 to R58): one choice of the Fetch Scheduler. -/
def execServePartition (s : State) : Host.Outcome State Fault Refusal :=
  .next
    (match s.running, s.freeSlotNumber, s.choice with
      | true, some i, some p => if (s.part p).parityOk then s.serve p i else s.enterHalted .partitionTable
      | _, _, _ => s)

/-- HOST_READ_REQUEST_ISSUE (R177): in RUNNING and STOPPING, a request at the front of the queue takes the lowest
FREE tag. -/
def execHostReadRequestIssue (s : State) : Host.Outcome State Fault Refusal :=
  .next
    (match s.active, s.link.queue, s.freeTag with
      | true, q :: rest, some t => s.issueRead q rest t
      | _, _, _ => s)

/-! ### Ends of record reads -/

/-- The ASSEMBLING slot `i` with its partition, if it waits for a record read (R64). -/
def State.awaitsRecord (s : State) (i : SNum) : Option (PNum × Assembling) :=
  let p := (s.slot i).partition
  match s.assembling p with
  | some a => if a.slot = i ∧ a.readOutstanding = true ∧ (s.slot i).st = .assembling then some (p, a) else none
  | none => none

/-- R60: the record read joins the member list of slot `i`, and sq_head advances. -/
def State.appendRecord (s : State) (p : PNum) (i : SNum) (r : SubRecord) : State :=
  (s.withSlot i fun x =>
    { x with members := x.members ++ [r], barrier := if x.members.isEmpty then r.barrierFlag else x.barrier,
             notifyNow := x.notifyNow || r.notifyNowFlag }).withPart p fun y => { y with sqHead := ringNext y.sqHead y.sqSize }

/-- R60, R65: assembly has ended with CONT clear; the slot enters WAIT_ORDER, and leaves it for RUNNING at once when
its barrier is clear or it is alone. -/
def State.enterWaitOrder (s : State) (p : PNum) (i : SNum) : Inner :=
  let s := s.withAssembling p none
  if (s.slot i).barrier = false ∨ s.slotsOf p = [i] then
    (s.withSlot i fun x => { x with st := .running }, [.startMember i])
  else (s.withSlot i fun x => { x with st := .waitOrder }, [])

/-- R62: the verdict on a group whose sixteenth record carries CONT. -/
def groupTooLong : Verdict := { status := .malformed, detail := detailGroupLength, failedMember := 15 }

/-- R60, R62: a record read of slot `i` returns with data. -/
def State.recordReturn (s : State) (p : PNum) (i : SNum) (a : Assembling) (r : SubRecord) : Inner :=
  let n := a.membersRead + 1
  let s := s.appendRecord p i r
  if !r.cont then s.enterWaitOrder p i
  else if Config.groupLimit ≤ n then (s.withAssembling p none, [.post i groupTooLong])
  else if (s.part p).sqHead ≠ (s.part p).sqTail then (s.readRecord p i n, [])
  else (s.withAssembling p (some { slot := i, membersRead := n, readOutstanding := false }), [])

/-- R63: a record read of slot `i` fails: the slot is settled and the partition faults. -/
def State.recordFailure (s : State) (p : PNum) (i : SNum) (a : Assembling) : Inner :=
  let s := s.withAssembling p (some { a with readOutstanding := false })
  (s, (if (s.slot i).members.isEmpty then [.returnSlot i] else []) ++ [.fault p .fetchError])

/-! ### Ends of COPY_IN requests -/

/-- R83: the bytes of a request at their place in the buffer. -/
def splice (data : List Byte) (place : Nat) (bytes : List Byte) : List Byte :=
  data.take place ++ bytes ++ data.drop (place + bytes.length)

/-- R83, R91: a request of a COPY_IN chunk ends with data. -/
def State.copyInReturn (s : State) (i : SNum) (k place : Nat) (bytes : List Byte) : Inner :=
  match (s.slot i).chunk k with
  | none => (s, [])
  | some c =>
    let n := c.requests - 1
    if c.discard then
      if n = 0 then s.endChunk i k false else (s.withSlot i fun x => x.changeChunk k fun c => { c with requests := n }, [])
    else
      let s := match c.buffer with
        | some b => s.withBuffer b fun x => { x with data := splice x.data place bytes }
        | none => s
      if n = 0 then
        (s.withSlot i fun x => x.changeChunk k fun c => { c with requests := n, phase := .held }, [.turn i])
      else (s.withSlot i fun x => x.changeChunk k fun c => { c with requests := n }, [])

/-- R83, R91, R92: a request of a COPY_IN chunk fails. -/
def State.copyInFailure (s : State) (i : SNum) (k detail : Nat) : Inner :=
  match (s.slot i).chunk k with
  | none => (s, [])
  | some c =>
    let n := c.requests - 1
    if c.discard && decide (n = 0) then s.endChunk i k false
    else
      (s.withSlot i fun x => x.changeChunk k fun c => { c with requests := n },
        if c.discard then [] else [.fail i .hostRead detail])

/-! ### Ends of command reads -/

/-- R161, R171: a command read fails; one that is no longer live is discarded (R172, R174). -/
def State.commandFailure (s : State) : State :=
  if s.commandLive then (s.channelFault .fetchError).withAdmin fun a => { a with readOutstanding := false }
  else s.discardCommandRead

/-! ### Ends of requests -/

/-- An inner event at slot `i` whose slot memory entry, and the partition entry if it is read, are good (R192). -/
def State.atSlot (s : State) (i : SNum) (parts : List PNum) (act : State → Inner) : State :=
  match s.parityError [i] [] parts with
  | some c => s.enterHalted c
  | none => (act s).1.finish s.sharedFree (act s).2

/-- R178: the data of a request are handed to its requester. -/
def State.deliver (s : State) (q : ReadRequest) (bytes : List Byte) : State :=
  match q.requester with
  | .orphan => s.endStop
  | .admin => s.takeCommand fun s => s.runCommand (decodeCommand bytes)
  | .copyIn i k => s.atSlot i (s.holderOf i) fun s => s.copyInReturn i k q.place bytes
  | .record i =>
    match s.awaitsRecord i with
    | none => s.endStop
    | some (p, a) => s.atSlot i [p] fun s => s.recordReturn p i a (SubRecord.decode bytes)

/-- The two ways a request fails (R178, R179). -/
inductive ReadFailure where
  | errorResponse | timeout
  deriving DecidableEq, Repr

/-- Detail codes of HOST_READ (R197). -/
def ReadFailure.code : ReadFailure → Nat
  | .errorResponse => 1
  | .timeout => 2

/-- R178, R179: the failure of a request is handed to its requester. -/
def State.deliverFailure (s : State) (q : ReadRequest) (f : ReadFailure) : State :=
  match q.requester with
  | .orphan => s.endStop
  | .admin => s.commandFailure
  | .copyIn i k => s.atSlot i (s.holderOf i) fun s => s.copyInFailure i k f.code
  | .record i =>
    match s.awaitsRecord i with
    | none => s.endStop
    | some (p, a) => s.atSlot i [p] fun s => s.recordFailure p i a

/-- HOST_READ_PART_RETURN (R178): a part is placed; with the last byte the request ends with data. A part whose tag
is not BUSY is discarded. -/
def execHostReadPartReturn (t : TNum) (offset : Nat) (data : List Byte) (s : State) : Host.Outcome State Fault Refusal :=
  .next
    (match s.onLink t with
      | some (q, got, left, limit) =>
        let got := placeBytes got offset data
        if allArrived got then (s.withTag t fun _ => .free).deliver q (arrivedData got)
        else s.withTag t fun _ => .busy q got left limit
      | none => s)

/-- HOST_READ_ERROR_RESPONSE (R178). -/
def execHostReadErrorResponse (t : TNum) (s : State) : Host.Outcome State Fault Refusal :=
  .next
    (match s.onLink t with
      | some (q, _) => (s.withTag t fun _ => .free).deliverFailure q .errorResponse
      | none => s)

/-- HOST_READ_TIMEOUT (R179): what is left on the request's timer passes, the timer expires, and the tag is
quarantined for as long as the timeout the request was issued with. -/
def execHostReadTimeout (t : TNum) (s : State) : Host.Outcome State Fault Refusal :=
  .next
    (match s.onLink t with
      | some (q, _, left, limit) => ((s.elapse left).withTag t fun _ => .quarantined limit).deliverFailure q .timeout
      | none => s)

/-- TAG_QUARANTINE_EXPIRY (R179): what is left of the quarantine passes and the tag becomes FREE. -/
def execTagQuarantineExpiry (t : TNum) (s : State) : Host.Outcome State Fault Refusal :=
  .next
    (match s.tag t with
      | .quarantined left => (s.elapse left).withTag t fun _ => .free
      | .free | .busy _ _ _ _ => s)

end Sys2Proof.Machine
end

