-- ==== Sys2Proof/Machine/Posting.lean ====
section
/-! DEFINITION. The issue of posted writes (R181, R98), the error path step (R144, R145) and the expiry of a holdoff
timer (R132). -/

namespace Sys2Proof.Machine

/-- Posted writes are issued in every state but INIT and HALTED (R189, R192). -/
def State.issues (s : State) : Bool := decide (s.device.st ≠ .init) && !s.halted

/-- What the issue of the last piece of a posted write brings about: a POSTING slot may be released (R98), and a data
place is taken by the first chunk that waits for one (R181). -/
def State.writeIssued (s : State) : WriteKind → Inner
  | .completion i => (s, [.completionIssued i])
  | .data =>
    match s.link.placeWaiters with
    | [] => (s, [])
    | j :: rest => (s.withLink fun l => { l with placeWaiters := rest }, [.turn j])
  | .adminCompletion | .counterReport | .event | .message _ => (s, [])

/-- R181: the first posted write of the store puts its next piece on the link. -/
def State.issueFirst (s : State) (w : PostedWrite) : Inner :=
  let t := s.withLink Link.issueWrite
  if w.rest.bytes.isEmpty then t.writeIssued w.kind else (t, [])

/-- POSTED_WRITE_ISSUE (R181). With nothing in the store nothing is issued. -/
def execPostedWriteIssue (s : State) : Host.Outcome State Fault Refusal :=
  .next
    (match s.issues, s.link.store with
      | true, w :: _ => (s.issueFirst w).1.finish s.sharedFree (s.issueFirst w).2
      | _, _ => s)

/-- The group in slot `i` awaits its error path step, with its failure, its class and the failed member's tag. -/
def State.errorPathDue (s : State) (i : SNum) : Option (Verdict × ErrorClass × Tag) :=
  let x := s.slot i
  match x.verdict with
  | some v =>
    if x.st = .posting ∧ x.errorDue = true then
      v.status.errorClass.map fun c => (v, c, ((x.members[v.failedMember]?).map SubRecord.tag).getD 0)
    else none
  | none => none

/-- R144: the error path step of the group in slot `i`, by the disposition in force. -/
def State.errorPath (s : State) (i : SNum) (v : Verdict) (c : ErrorClass) (tag : Tag) : Inner :=
  let p := (s.slot i).partition
  let s := s.withSlot i fun x => { x with errorDue := false }
  let event := Event.transferError p tag c v.detail
  match (s.part p).dispositions.of c with
  | .report => (s, [.release98 i])
  | .reportEvent => (s.handOver event, [.release98 i])
  | .halt => (s.handOver event, [.fault p .haltDisposition, .release98 i])

/-- ERROR_PATH_STEP (R144): taken in RUNNING and STOPPING (R157), once for each failed group. -/
def execErrorPathStep (i : SNum) (s : State) : Host.Outcome State Fault Refusal :=
  .next
    (match s.active, s.errorPathDue i with
      | true, some (v, c, tag) =>
        match s.parityError [i] [] [(s.slot i).partition] with
        | some h => s.enterHalted h
        | none => (s.errorPath i v c tag).1.finish s.sharedFree (s.errorPath i v c tag).2
      | _, _ => s)

/-- HOLDOFF_EXPIRY (R132): what is left on a GATHERING vector's timer passes and the timer expires. In HALTED timers
are frozen (R139). -/
def execHoldoffExpiry (n : VNum) (s : State) : Host.Outcome State Fault Refusal :=
  .next
    (match s.halted, (s.vector n).timer with
      | false, some left => (s.elapse left).react n ((s.elapse left).vector n).onExpiry
      | _, _ => s)

end Sys2Proof.Machine
end

