-- ==== Sys2Proof/Machine/Flags.lean ====
section
/-! DEFINITION. The register window as values: the fields of IDENT, CONTROL and STATUS (R183 to R186), the value a
read of each offset returns (R184, R187), and how a write covers a register (R187). -/

namespace Sys2Proof.Machine

/-! ### Field codes (R183) -/

/-- Device state codes of STATUS. -/
def DeviceState.code : DeviceState → Nat
  | .init => 0 | .ready => 1 | .running => 2 | .stopping => 3 | .halted => 4

/-- Halt cause codes of STATUS. -/
def HaltCause.code : HaltCause → Nat
  | .windowTable => 1 | .slotMemory => 2 | .partitionTable => 3

/-- Card memory size codes of IDENT; setting 3 is reported as 1 GiB (R1). -/
def sizeCode (strap : BitVec 2) : Nat :=
  match strap.toNat with
  | 1 => 1
  | 2 => 2
  | _ => 0

/-- A flag as a number. -/
def bit (b : Bool) : Nat := if b then 1 else 0

/-! ### Register values -/

/-- R183, R184: IDENT. -/
def State.identValue (s : State) : BitVec 32 :=
  BitVec.ofNat 32 (0xCD16 * 2 ^ 16 + 1 * 2 ^ 12 + sizeCode s.device.strap * 2 ^ 10 + 31 * 2 ^ 5 + 15 * 2)

/-- R185: CONTROL reads ENABLE as 1 in RUNNING alone, and FUNCTION_RESET as 0. -/
def State.controlValue (s : State) : BitVec 32 := BitVec.ofNat 32 (bit s.running)

/-- R183, R186: STATUS. -/
def State.statusValue (s : State) : BitVec 32 :=
  BitVec.ofNat 32 (s.device.st.code + bit s.admin.faulted * 2 ^ 3
    + (if s.admin.faulted then (s.admin.faultCause.map ChannelFault.code).getD 0 else 0) * 2 ^ 4
    + bit s.device.configError * 2 ^ 8 + bit s.device.notifyRejected * 2 ^ 9
    + (s.device.haltCause.map HaltCause.code).getD 0 * 2 ^ 12)

/-- R183, R184, R187: what a 32-bit read of an offset returns. Only the read of STATUS also acts (R186), and has
a row of the table. -/
def State.readRegister (s : State) (offset : BitVec 12) : BitVec 32 :=
  match offset.toNat with
  | 0x000 => s.identValue
  | 0x004 => s.controlValue
  | 0x008 => s.statusValue
  | 0x010 => s.device.adminSqBase.setWidth 32
  | 0x014 => (s.device.adminSqBase >>> 32).setWidth 32
  | 0x018 => s.device.adminCqBase.setWidth 32
  | 0x01C => (s.device.adminCqBase >>> 32).setWidth 32
  | 0x020 => s.device.adminSizes
  | _ => 0

/-! ### Writes -/

/-- A write of a 64-bit base register, whole or by halves (section 10.2). -/
def writeBase (old : HostAddr) : BaseAccess → HostAddr
  | .full v => v
  | .low v => (old >>> 32 <<< 32) ||| v.setWidth 64
  | .high v => (v.setWidth 64 <<< 32) ||| (old.setWidth 32).setWidth 64

/-- The listed bits of ADMIN_SIZES: 3:0 and 11:8 (R183). -/
def sizesMask : BitVec 32 := 0xF0F

/-- The log2 sizes of the admin rings, submission ring first (R183). -/
def sqLogOf (sizes : BitVec 32) : Nat := (sizes &&& 0xF).toNat
def cqLogOf (sizes : BitVec 32) : Nat := ((sizes >>> 8) &&& 0xF).toNat

/-- R190, R160: the test of an enable attempt. -/
def Device.enableOk (d : Device) : Bool :=
  decide (d.adminSqBase.toNat % Config.pageSize = 0) && decide (d.adminCqBase.toNat % Config.pageSize = 0)
    && decide (4 ≤ sqLogOf d.adminSizes) && decide (sqLogOf d.adminSizes ≤ 8)
    && decide (4 ≤ cqLogOf d.adminSizes) && decide (cqLogOf d.adminSizes ≤ 8)

end Sys2Proof.Machine
end

