-- ==== Sys2Proof/Machine/Registers.lean ====
section
/-! DEFINITION. Register writes and the read of STATUS (R183 to R187), the enable attempt (R190, R160) and the
beginning of a stop (R191, R174, R52). -/

namespace Sys2Proof.Machine

/-! ### The admin ring registers -/

/-- R187: the admin ring registers take writes in READY alone. -/
def State.writeRegister (s : State) (f : Device → Device) : State :=
  if s.device.st = .ready then s.withDevice f else s

/-- ADMIN_SQ_BASE_WRITE (R187). -/
def execAdminSqBaseWrite (a : BaseAccess) (s : State) : Host.Outcome State Fault Refusal :=
  .next (s.writeRegister fun d => { d with adminSqBase := writeBase d.adminSqBase a })

/-- ADMIN_CQ_BASE_WRITE (R187). -/
def execAdminCqBaseWrite (a : BaseAccess) (s : State) : Host.Outcome State Fault Refusal :=
  .next (s.writeRegister fun d => { d with adminCqBase := writeBase d.adminCqBase a })

/-- ADMIN_SIZES_WRITE (R187): the bits that are not listed stay 0. -/
def execAdminSizesWrite (v : BitVec 32) (s : State) : Host.Outcome State Fault Refusal :=
  .next (s.writeRegister fun d => { d with adminSizes := v &&& sizesMask })

/-- REGISTER_WRITE_IGNORED (R184). -/
def execRegisterWriteIgnored (_offset : BitVec 12) (_width : Nat) (_value : BitVec 64) (s : State) :
    Host.Outcome State Fault Refusal :=
  .next s

/-- STATUS_READ (R186): the read returns the value before the clearing of NOTIFY_REJECTED. -/
def execStatusRead (s : State) : Host.Outcome State Fault Refusal :=
  .next (s.withDevice fun d => { d with readData := s.statusValue, notifyRejected := false })

/-! ### The enable attempt -/

/-- R160: the Admin Engine takes up the rings of the registers. -/
def Admin.takeUp (a : Admin) (d : Device) : Admin :=
  { a with faulted := false, faultCause := none, sqBase := d.adminSqBase, cqBase := d.adminCqBase,
           sqSize := 2 ^ sqLogOf d.adminSizes, cqSize := 2 ^ cqLogOf d.adminSizes, sqHead := 0, sqTail := 0, cqHead := 0,
           reserved := 0, readOutstanding := false }

/-- R190, R160, R127: an enable attempt that passes enters RUNNING and takes up the admin rings. -/
def State.enable (s : State) : State :=
  ((s.withDevice fun d => { d with st := .running, configError := false }).withAdmin fun a => a.takeUp s.device).withPoster
    fun _ => { index := 0, pass := true }

/-- ENABLE_ATTEMPT (R190); outside READY a write with ENABLE 1 has no effect (R185). -/
def execEnableAttempt (s : State) : Host.Outcome State Fault Refusal :=
  .next
    (if s.device.st = .ready then
      if s.device.enableOk then s.enable else s.withDevice fun d => { d with configError := true }
    else s)

/-! ### The stop -/

/-- R52: what a stop makes of a partition entry at once. -/
def Partition.stopped (y : Partition) : Partition :=
  match y.st with
  | .closed | .closing => y
  | .opened | .quiesced | .faulted => { y with st := .closing, pendingTag := none }
  | .quiescing => { y with st := .closing }

/-- R169: at a stop the closing takes over the entry of a pending quiesce. -/
def Deferred.taken (d : Deferred) : Deferred := if d.op = .partitionQuiesce then { d with op := .partitionClose } else d

/-- R52: the windows of the partitions that a stop closes. -/
def State.closeAllWindows (s : State) (closing : List PNum) : State :=
  match closing with
  | [] => s
  | p :: rest => (s.closeWindows p).closeAllWindows rest

/-- R191, R174, R52: the stop's step. Every partition that is open begins to close, every occupied slot has its
abort request, and a partition with no occupied slot ends its closing at once. -/
def State.beginStop (s : State) : Inner :=
  let closing := which fun p => decide ((s.part p).st ≠ .closed) && decide ((s.part p).st ≠ .closing)
  let empty := closing.filter fun p => decide ((s.part p).slotsHeld = 0)
  let t := (s.withDevice fun d => { d with st := .stopping }).discardAnswers
  let t := t.withAdmin fun a => { a with deferred := mapTab (fun _ d => d.map Deferred.taken) a.deferred }
  let t := { t with parts := mapTab (fun _ (y : Partition) => y.stopped) t.parts }
  let t := t.closeAllWindows closing
  let r := t.abortRound .stop (which fun i => (s.slot i).occupied)
  (r.1, empty.map Work.endClosing ++ r.2)

/-- STOP (R191). The step reads every partition and window entry and every occupied slot (R192); outside RUNNING a
write with ENABLE 0 has no effect (R185). -/
def execStop (s : State) : Host.Outcome State Fault Refusal :=
  .next
    (if s.running then
      match s.parityError (which fun i => (s.slot i).occupied) (List.finRange 64) (List.finRange 16) with
      | some c => s.enterHalted c
      | none => s.beginStop.1.finish s.sharedFree s.beginStop.2
    else s)

end Sys2Proof.Machine
end

