-- ==== Sys2Proof/Machine/Resets.lean ====
section
/-! DEFINITION. The resets (R194, R193) and the end of the power-on scrub (R5), block by block as each chapter states
for its own state. -/

namespace Sys2Proof.Machine

/-! ### Power-on and bus reset -/

/-- R194, R189: INIT, with every block but card memory at its power-on value and the strap sampled. The queue of
commands, the draws and the names of card accesses are the model's own. Card accesses in progress go on (R100;
DEDUCED, notes/assumptions/16.md). -/
def State.powerUp (s : State) (strap : BitVec 2) : State :=
  { State.reset with
    device := { State.reset.device with strap }
    card := { s.card with ops := s.card.ops.map fun o => { o with owner := none } }
    draws := s.draws
    pending := s.pending }

/-- POWER_ON_RESET (R194): INIT, with a scrub of card memory started at address 0 (R5). A scrub that was running has
gone on until then. -/
def execPowerOnReset (strap : BitVec 2) (s : State) : Host.Outcome State Fault Refusal :=
  .next ((s.scrubOn.powerUp strap).withCard fun c => { c with scrub := some 0 })

/-- BUS_RESET (R194): INIT. A scrub that runs goes on, from the word it has come to, to the end of the size now in force
(R5); without one card memory is kept, and INIT ends when the reset values stand (R189), which `State.tick` takes. -/
def execBusReset (strap : BitVec 2) (s : State) : Host.Outcome State Fault Refusal := .next (s.scrubOn.powerUp strap)

/-- SCRUB_COMPLETE (R5): the last word is written and the device leaves INIT for READY. With no scrub running
nothing ends (DESIGN CHOICE, notes/assumptions/8.md). -/
def execScrubComplete (s : State) : Host.Outcome State Fault Refusal :=
  .next
    (if s.card.scrub.isSome ∧ s.device.st = .init then s.scrubEnd.withDevice fun d => { d with st := .ready } else s)

/-- R189: after a bus reset outside a scrub INIT ends when every block holds its reset values, and the device enters
READY: the model ends it at the next time step (DESIGN CHOICE, notes/assumptions/6.md). -/
def State.endInit (s : State) : State :=
  if s.device.st = .init ∧ s.card.scrub = none then s.withDevice fun d => { d with st := .ready } else s

/-! ### Function reset -/

/-- R193: what a function reset leaves of the device registers; the admin ring registers are kept. -/
def Device.functionReset (d : Device) : Device :=
  { d with st := .ready, configError := false, notifyRejected := false, haltCause := none }

/-- R182: what a function reset leaves of the Host Link Unit. -/
def Link.functionReset (l : Link) : Link :=
  { l with queue := [], tags := mapTab (fun _ t => t.onFunctionReset) l.tags, store := [], placeWaiters := [],
           timeout := Config.defaultTimeout }

/-- R100: the card accesses in progress go on without a slot. -/
def Card.functionReset (c : Card) : Card := { c with ops := c.ops.map fun o => { o with owner := none } }

/-- R193: the function reset of every block. -/
def State.functionReset (s : State) : State :=
  { device := s.device.functionReset
    card := s.card.functionReset
    windows := mapTab (fun _ w => w.functionReset) s.windows
    fences := s.fences.functionReset
    parts := Vector.replicate 16 Partition.reset
    sched := Scheduler.reset
    slots := Vector.replicate 32 Slot.free
    pool := s.pool.functionReset
    poster := { index := 0, pass := true }
    vectors := Vector.replicate 18 MsgVector.reset
    events := EventRing.reset
    admin := Admin.reset
    link := s.link.functionReset
    draws := s.draws
    pending := s.pending }

/-- R193, R185: a function reset is taken in every state but INIT. -/
def State.tryFunctionReset (s : State) : State := if s.device.st = .init then s else s.functionReset

/-- FUNCTION_RESET (R193): a CONTROL write with FUNCTION_RESET 1, whatever its ENABLE bit (R185). -/
def execFunctionReset (_enable : Bool) (s : State) : Host.Outcome State Fault Refusal := .next s.tryFunctionReset

/-- PCIE_FUNCTION_LEVEL_RESET (R193); in INIT it has no further effect (R189). -/
def execPcieFunctionLevelReset (s : State) : Host.Outcome State Fault Refusal := .next s.tryFunctionReset

end Sys2Proof.Machine
end

