-- ==== Sys2Proof/Machine/Dispatch.lean ====
section
/-! DEFINITION. The meaning of every command, one arm per row of spec/opcode_table.json. -/

namespace Sys2Proof.Machine

/-- The effect of a command on everything but the queue. -/
def exec (i : Instr) (s : State) : Host.Outcome State Fault Refusal :=
  match i with
  | .powerOnReset strap => Sys2Proof.Machine.execPowerOnReset strap s
  | .busReset strap => Sys2Proof.Machine.execBusReset strap s
  | .scrubComplete => Sys2Proof.Machine.execScrubComplete s
  | .functionReset enable => Sys2Proof.Machine.execFunctionReset enable s
  | .pcieFunctionLevelReset => Sys2Proof.Machine.execPcieFunctionLevelReset s
  | .enableAttempt => Sys2Proof.Machine.execEnableAttempt s
  | .stop => Sys2Proof.Machine.execStop s
  | .adminSqBaseWrite a => Sys2Proof.Machine.execAdminSqBaseWrite a s
  | .adminCqBaseWrite a => Sys2Proof.Machine.execAdminCqBaseWrite a s
  | .adminSizesWrite v => Sys2Proof.Machine.execAdminSizesWrite v s
  | .registerWriteIgnored offset width value => Sys2Proof.Machine.execRegisterWriteIgnored offset width value s
  | .statusRead => Sys2Proof.Machine.execStatusRead s
  | .notifySqTail p index => Sys2Proof.Machine.execNotifySqTail p index s
  | .notifyCqHead p index => Sys2Proof.Machine.execNotifyCqHead p index s
  | .notifyAdminSqTail index => Sys2Proof.Machine.execNotifyAdminSqTail index s
  | .notifyAdminCqHead index => Sys2Proof.Machine.execNotifyAdminCqHead index s
  | .notifyEventRingHead index => Sys2Proof.Machine.execNotifyEventRingHead index s
  | .notifyBadSelector selector index => Sys2Proof.Machine.execNotifyBadSelector selector index s
  | .adminCommandReadIssue => Sys2Proof.Machine.execAdminCommandReadIssue s
  | .partitionOpen tag rsv partition sqLog cqLog depth reserve limit sqBase cqBase => Sys2Proof.Machine.execPartitionOpen tag rsv partition sqLog cqLog depth reserve limit sqBase cqBase s
  | .partitionQuiesce tag rsv partition => Sys2Proof.Machine.execPartitionQuiesce tag rsv partition s
  | .partitionResume tag rsv partition => Sys2Proof.Machine.execPartitionResume tag rsv partition s
  | .partitionClose tag rsv partition => Sys2Proof.Machine.execPartitionClose tag rsv partition s
  | .reportCounters tag rsv partition clear address => Sys2Proof.Machine.execReportCounters tag rsv partition clear address s
  | .dispositionSet tag rsv partition cls disposition => Sys2Proof.Machine.execDispositionSet tag rsv partition cls disposition s
  | .windowOpen tag rsv window owner access cardBase length => Sys2Proof.Machine.execWindowOpen tag rsv window owner access cardBase length s
  | .windowLock tag rsv window => Sys2Proof.Machine.execWindowLock tag rsv window s
  | .windowClose tag rsv window => Sys2Proof.Machine.execWindowClose tag rsv window s
  | .fenceSet tag rsv fence cardBase length => Sys2Proof.Machine.execFenceSet tag rsv fence cardBase length s
  | .fenceClear tag rsv fence => Sys2Proof.Machine.execFenceClear tag rsv fence s
  | .fenceLock tag rsv => Sys2Proof.Machine.execFenceLock tag rsv s
  | .poolSet tag rsv partition reserve limit => Sys2Proof.Machine.execPoolSet tag rsv partition reserve limit s
  | .poolWatermark tag rsv watermark => Sys2Proof.Machine.execPoolWatermark tag rsv watermark s
  | .vectorSet tag rsv vector enable threshold holdoff address data => Sys2Proof.Machine.execVectorSet tag rsv vector enable threshold holdoff address data s
  | .eventRingSet tag rsv size base => Sys2Proof.Machine.execEventRingSet tag rsv size base s
  | .linkSet tag rsv timeout => Sys2Proof.Machine.execLinkSet tag rsv timeout s
  | .unknownOpcode opcode tag => Sys2Proof.Machine.execUnknownOpcode opcode tag s
  | .servePartition => Sys2Proof.Machine.execServePartition s
  | .hostReadRequestIssue => Sys2Proof.Machine.execHostReadRequestIssue s
  | .hostReadPartReturn tag offset data => Sys2Proof.Machine.execHostReadPartReturn tag offset data s
  | .hostReadErrorResponse tag => Sys2Proof.Machine.execHostReadErrorResponse tag s
  | .hostReadTimeout tag => Sys2Proof.Machine.execHostReadTimeout tag s
  | .tagQuarantineExpiry tag => Sys2Proof.Machine.execTagQuarantineExpiry tag s
  | .cardReadDataReturn access => Sys2Proof.Machine.execCardReadDataReturn access s
  | .cardReadEccError access => Sys2Proof.Machine.execCardReadEccError access s
  | .cardWriteAcknowledge access badFirst badLast => Sys2Proof.Machine.execCardWriteAcknowledge access badFirst badLast s
  | .postedWriteIssue => Sys2Proof.Machine.execPostedWriteIssue s
  | .errorPathStep slot => Sys2Proof.Machine.execErrorPathStep slot s
  | .holdoffExpiry vector => Sys2Proof.Machine.execHoldoffExpiry vector s

end Sys2Proof.Machine
end

