-- ==== Sys2Proof/Machine/Step.lean ====
section
/-! DEFINITION. One step of the machine: the command at the front of the queue, or one µs of the time base when no
command waits, with which an INIT that waits for no scrub ends. -/

namespace Sys2Proof.Machine

/-- A step with no command waiting: one µs passes on the time base, which runs in every state (section 10.5), and an
INIT without a scrub ends (R189; DESIGN CHOICE, notes/assumptions/6.md). -/
def State.tick (s : State) : State := (s.elapse 1).endInit

/-- The command at the front of the queue is executed with the queue's rest; on an empty queue the time step is taken
(DESIGN CHOICE, notes/assumptions/1.md). -/
def step (s : State) : Host.Outcome State Fault Refusal :=
  match s.pending with
  | [] => .next s.tick
  | c :: rest => exec c (s.withPending rest)

/-- The command that a word spells is put at the front of the queue; no word of the table spells one
(notes/assumptions/2.md). -/
def State.withFetchWord (s : State) (nbits w : Nat) : State :=
  match decodeTableWord nbits w with
  | some c => s.withPending (c :: s.pending)
  | none => s

end Sys2Proof.Machine
end

