-- ==== Sys2Proof/Safety.lean ====
section
/-! DEFINITION. What counts as a safe state and a safe run of the CN-416, and the conditions that statements about it
share, in the terms of the manual. -/

namespace Sys2Proof.Machine

/-! ### Laws that every state keeps -/

/-- The byte at card address `a` lies in the window. -/
def Window.covers (w : Window) (a : Nat) : Prop := w.cardBase ≤ a ∧ a < w.cardBase + w.length

/-- R8: no byte of card memory lies both within a write-permitted non-FREE window of one partition and within any
non-FREE window owned by a different partition. -/
def Isolated (s : State) : Prop :=
  ∀ (v w : WNum) (a : Nat), (s.window v).st ≠ .free → (s.window w).st ≠ .free → (s.window v).owner ≠ (s.window w).owner →
    (s.window v).access.writes = true → (s.window v).covers a → ¬(s.window w).covers a

/-- R105: the number of free buffers is never less than the sum, over all partitions not CLOSED, of reserve minus held
where that difference is positive. -/
def PoolCovered (s : State) : Prop :=
  (total fun p : PNum => if (s.part p).st = .closed then 0 else (s.part p).reserve - (s.part p).held) ≤ s.pool.free

/-- Card memory is in its canonical form. -/
def MemoryInForm (s : State) : Prop := Memory.wf s.card.mem = true

/-- A run that keeps the laws: from every state that has them, no number of steps leads to a state without them. -/
def SafeFrom (s : State) : Prop :=
  ∀ (k : Nat) (t : State), Host.Core.run Sys2Proof.core k s = .next t → Isolated t ∧ PoolCovered t ∧ MemoryInForm t

/-! ### Conditions -/

/-- No entry of the window table, the partition table or the slot memory has a parity error. -/
def TablesGood (s : State) : Prop :=
  (∀ i, (s.slot i).parityOk = true) ∧ (∀ w, (s.window w).parityOk = true) ∧ (∀ p, (s.part p).parityOk = true)

/-- R164: the command read on tag `n` is the one a command row returns on, the channel is NORMAL, no stop has begun, and
no table entry has a parity error. -/
def CommandReady (s : State) (n : TNum) : Prop :=
  s.adminTag = some n ∧ s.commandLive = true ∧ TablesGood s

/-- R164, item 1, with the tag freed by R178: what every executed command does first. -/
def State.taken (s : State) (n : TNum) : State :=
  (s.withTag n fun _ => .free).withAdmin fun a =>
    { a with sqHead := (a.sqHead + 1) % a.sqSize, readOutstanding := false }

/-- R56: partition `p` is eligible for service, conditions 2 to 6 and 8. -/
def Eligible (s : State) (p : PNum) : Prop :=
  (s.part p).st = .opened ∧ (s.part p).sqHead ≠ (s.part p).sqTail ∧ s.assembling p = none
    ∧ (∀ i, (s.slot i).st ≠ .free → (s.slot i).partition = p → (s.slot i).barrier = false)
    ∧ (s.part p).slotsHeld < (s.part p).depth
    ∧ (s.part p).cqReserved + ringSpan (s.part p).cqTail (s.part p).cqHead (s.part p).cqSize + 1 < (s.part p).cqSize

/-- R44, R170, R152: a new head `h` is in range and consumes no record beyond the tail. -/
def HeadValid (new head tail size : Nat) : Prop :=
  new < size ∧ ((new : Int) - head) % size ≤ ((tail : Int) - head) % size

/-- The admin channel after a fault (R171): FAULTED with its cause, every deferred answer DISCARD, and the reservations of
the entries that were POST and of a read outstanding released. -/
def faultedChannel (a : Admin) (c : ChannelFault) : Admin :=
  { a with
    faulted := true, faultCause := some c
    deferred := mapTab (fun _ d => d.map fun d => { d with post := false }) a.deferred
    reserved := a.reserved - ((which fun i => ((look a.deferred i).map Deferred.post).getD false).length
      + if a.readOutstanding = true then 1 else 0) }

/-! ### Chunks and members -/

/-- R77, R80: slot `i` runs its current member, of record `r` and context `m`, which has neither failed nor been aborted. -/
def MemberRuns (s : State) (i : SNum) (r : SubRecord) (m : MemberCtx) : Prop :=
  (s.slot i).st = .running ∧ (s.slot i).verdict = none ∧ (s.slot i).abort = none ∧ (s.slot i).ctx = some m
    ∧ (s.slot i).members[(s.slot i).current]? = some r

/-- R82: chunk `c` is the one of slot `i` whose turn to write comes when it is HELD, and no other chunk is HELD. -/
def TurnOf (s : State) (i : SNum) (c : ChunkCtx) : Prop :=
  (s.slot i).chunks.find? (fun c => decide (c.phase ≠ .writing)) = some c
    ∧ ∀ d ∈ (s.slot i).chunks, d.chunk ≠ c.chunk → d.phase ≠ .held

/-- R82, R88, R89: the turn of chunk `c` has come and exactly the chunks below it count as done, as when the chunks of a COPY_OUT or
a DIGEST end in chunk order. -/
def TurnInOrder (s : State) (i : SNum) (r : SubRecord) (m : MemberCtx) (c : ChunkCtx) : Prop :=
  MemberRuns s i r m ∧ TurnOf s i c ∧ m.doneChunks = c.chunk ∧ m.doneAhead = [] ∧ 2048 * c.chunk < r.length.toNat

/-- R77, R78, R90, R91: the member after the running one, with record `r'`, answers its group with `v` in the step of its start: its
start fails, or it is a MARK and the last of its group. -/
def NextAnswers (s : State) (i : SNum) (r' : SubRecord) (v : Verdict) : Prop :=
  (s.slot i).members[(s.slot i).current + 1]? = some r'
    ∧ ((s.startCheck (s.slot i).partition r' = .error (v.status, v.detail) ∧ v.failedMember = (s.slot i).current + 1)
      ∨ ((∃ t, s.startCheck (s.slot i).partition r' = .ok t ∧ t.op = .mark)
        ∧ (s.slot i).members.length = (s.slot i).current + 2 ∧ v = { status := .ok, detail := 0, failedMember := 0 }))

/-- R88 to R90, R96: the chunk `c` is all that is left of the running member, which is the last of its group; no window of
its references retires with its end; and the group's completion is to be written. -/
def LastChunk (s : State) (i : SNum) (r : SubRecord) (m : MemberCtx) (c : ChunkCtx) : Prop :=
  MemberRuns s i r m ∧ (s.slot i).members.length = (s.slot i).current + 1 ∧ (s.slot i).chunks = [c]
    ∧ m.count = c.chunk + 1 ∧ m.next = c.chunk + 1 ∧ m.doneChunks = c.chunk ∧ m.doneAhead = []
    ∧ 2048 * c.chunk < r.length.toNat ∧ r.length.toNat ≤ 2048 * (c.chunk + 1)
    ∧ (∀ w ∈ m.refs, (s.window w).st ≠ .retiring ∨ m.refs.count w < (s.window w).refs)
    ∧ (s.part (s.slot i).partition).faultCause ≠ some .cqIndex

/-- R22: no fence in force overlaps the card range. -/
def FenceClear (s : State) (base len : Nat) : Prop :=
  ∀ f, (s.fence f).st = .empty ∨ (s.fence f).cardBase + (s.fence f).length ≤ base ∨ base + len ≤ (s.fence f).cardBase

/-- R22: `f` is the lowest fence in force that overlaps the card range. -/
def FenceStops (s : State) (base len : Nat) (f : FNum) : Prop :=
  let meets (f : FNum) : Prop := (s.fence f).st ≠ .empty ∧ (s.fence f).cardBase < base + len
    ∧ base < (s.fence f).cardBase + (s.fence f).length
  meets f ∧ ∀ j < f, ¬meets j

/-- R2, R21: the state with a card access of chunk `k` issued and its access record made. -/
def State.withAccess (s : State) (i : SNum) (k base len : Nat) (write : Option (List Byte)) : State :=
  { s with
    card := { s.card with
      ops := s.card.ops ++ [{ id := s.card.nextOp, owner := some (i, k), base, len, write, reached := [], seen := [] }]
      nextOp := s.card.nextOp + 1 }
    fences := { s.fences with
      records := s.fences.records ++ [{ id := s.card.nextOp, slot := i, chunk := k, base, len, countedBy := [] }] } }

/-- R103: the state with buffer `b` granted to slot `i` of partition `p`. -/
def State.withBufferGranted (s : State) (b : BNum) (i : SNum) (p : PNum) : State :=
  ((s.withBuffer b fun x => { x with owner := some i }).withPool fun q => { q with free := q.free - 1 }).withPart p fun y =>
    { y with held := y.held + 1 }

/-- R106, R104: partition `p` may be granted a buffer. -/
def MayTake (s : State) (p : PNum) : Prop :=
  (s.part p).st ≠ .closed ∧ ((s.part p).held < (s.part p).reserve ∨ ((s.part p).held < (s.part p).limit ∧ 0 < s.sharedFree))

/-- R102: `b` is the lowest-numbered free buffer. -/
def LowestFree (s : State) (b : BNum) : Prop := (s.buffer b).owner = none ∧ ∀ j < b, (s.buffer j).owner ≠ none

/-- R103: the state with buffer `b` given back by partition `p` and free. -/
def State.withBufferBack (s : State) (b : BNum) (p : PNum) : State :=
  ((s.withBuffer b fun x => { x with owner := none }).withPool fun q => { q with free := q.free + 1 }).withPart p fun y =>
    { y with held := y.held - 1 }

/-- R90, R17, R97: the state with the member of slot `i` ended: `f` says what it leaves in the slot, its context is dropped,
its references are released, and its group is answered with `v`. -/
def State.withGroupAnswered (s : State) (i : SNum) (refs : List WNum) (f : Slot → Slot) (v : Verdict) : State :=
  ({ s with windows := mapTab (fun w (y : Window) => { y with refs := y.refs - refs.count w }) s.windows }.withSlot i fun x =>
    { f x with ctx := none, chunks := [] }).postGroup i v

/-! ### Resets -/

/-- R32, R51: what a reset leaves of a partition table entry, in the fields that the manual gives. -/
def PartitionAtReset (y : Partition) : Prop :=
  y.st = .closed ∧ y.sqHead = 0 ∧ y.sqTail = 0 ∧ y.cqTail = 0 ∧ y.cqHead = 0 ∧ y.cqReserved = 0 ∧ y.slotsHeld = 0 ∧ y.held = 0
    ∧ y.dispositions = { window := .reportEvent, fenced := .reportEvent, hostRead := .report, cardEcc := .reportEvent,
                         malformed := .report }
    ∧ y.groupsOk = 0 ∧ y.groupsFailed = 0 ∧ y.bytesMoved = 0 ∧ y.bufferWaits = 0 ∧ y.faultCause = none ∧ y.pendingTag = none

/-- R194, R189: INIT, with every block but card memory at its power-on value and strap `k`, after a reset in state `s`;
outside a scrub card memory and its marks are kept. -/
def PowerOnBlocks (k : BitVec 2) (s t : State) : Prop :=
  t.device.st = .init ∧ t.device.strap = k ∧ t.device.adminSqBase = 0 ∧ t.device.adminCqBase = 0 ∧ t.device.adminSizes = 0
    ∧ t.device.configError = false ∧ t.device.notifyRejected = false ∧ t.device.haltCause = none
    ∧ (s.card.scrub = none → t.card.mem = s.card.mem ∧ t.card.marks = s.card.marks)
    ∧ (∀ w, (t.window w).st = .free ∧ (t.window w).refs = 0 ∧ (t.window w).owner = none ∧ (t.window w).closeTag = none)
    ∧ (∀ f, t.fence f = { st := .empty, cardBase := 0, length := 0, outstanding := none, setTag := none })
    ∧ t.fences.locked = false ∧ t.fences.records = []
    ∧ (∀ p, PartitionAtReset (t.part p))
    ∧ t.sched.pointer = 15 ∧ (∀ p, t.assembling p = none)
    ∧ (∀ i, (t.slot i).st = .free)
    ∧ t.pool.free = 128 ∧ (∀ b, (t.buffer b).owner = none) ∧ t.pool.waiting = [] ∧ t.pool.pointer = 15
    ∧ t.pool.watermark = 8 ∧ t.pool.low = false
    ∧ t.poster = { index := 0, pass := true }
    ∧ (∀ n, t.vector n = MsgVector.reset)
    ∧ t.events = EventRing.reset ∧ t.admin = Admin.reset
    ∧ t.link.queue = [] ∧ (∀ n, t.tag n = .free) ∧ t.link.store = [] ∧ t.link.timeout = 32
    ∧ t.pending = s.pending

/-- R193, with R19, R31, R51, R73, R100, R119, R130, R158, R175 and R182: what a function reset in state `s` leaves. -/
def FunctionResetBlocks (s t : State) : Prop :=
  t.device = { s.device with st := .ready, configError := false, notifyRejected := false, haltCause := none }
    ∧ t.card = { s.card with ops := s.card.ops.map fun o => { o with owner := none } }
    ∧ (∀ w, (s.window w).st = .locked → t.window w = { s.window w with refs := 0, closeTag := none })
    ∧ (∀ w, (s.window w).st ≠ .locked → (t.window w).st = .free ∧ (t.window w).refs = 0 ∧ (t.window w).owner = none)
    ∧ t.fences.locked = s.fences.locked
    ∧ (s.fences.locked = true → (∀ f, t.fence f = { s.fence f with setTag := none }) ∧ t.fences.records = s.fences.records)
    ∧ (s.fences.locked = false → (∀ f, t.fence f = Fence.empty)
        ∧ t.fences.records = s.fences.records.map fun r => { r with countedBy := [] })
    ∧ (∀ p, PartitionAtReset (t.part p)) ∧ t.sched.pointer = 15 ∧ (∀ p, t.assembling p = none)
    ∧ (∀ i, (t.slot i).st = .free)
    ∧ t.pool.free = 128 ∧ (∀ b, (t.buffer b).owner = none ∧ (t.buffer b).data = (s.buffer b).data) ∧ t.pool.waiting = []
    ∧ t.pool.pointer = 15 ∧ t.pool.watermark = 8 ∧ t.pool.low = false
    ∧ t.poster = { index := 0, pass := true } ∧ (∀ n, t.vector n = MsgVector.reset)
    ∧ t.events = EventRing.reset ∧ t.admin = Admin.reset
    ∧ t.link.queue = [] ∧ t.link.store = [] ∧ t.link.timeout = 32
    ∧ (∀ n, t.tag n = match s.tag n with
        | .busy _ _ _ _ => .quarantined 32000
        | .free => .free
        | .quarantined left => .quarantined left)
    ∧ t.pending = s.pending

/-- The two resets that R13 and R29 name: power-on reset and bus reset. -/
def powerOnOrBus : Instr → Bool
  | .powerOnReset _ | .busReset _ => true
  | _ => false

end Sys2Proof.Machine
end

