-- ==== Sys2Proof/Certificates/Slice0/Obligations.lean ====
section
/-! DEFINITION. The statements about the CN-416. Each docstring names the rule a statement formalises, or says that the
statement is about a choice of the model. -/

open Sys2Proof Sys2Proof.Machine

/-! ### Steps and reset -/

/-- A step runs the command at the front of the queue on the state with the queue's rest. With no command waiting one µs
passes on every timer (the model's choice, notes/assumptions/1.md), and an INIT in which no scrub runs ends in READY (R189; that it
ends then is the model's choice, notes/assumptions/6.md). -/
def Obligations.StepRunsFrontCommand : Prop :=
  ∀ s : State,
    (∀ (c : Instr) (rest : List Instr), s.pending = c :: rest → step s = exec c { s with pending := rest })
    ∧ (s.pending = [] → ∃ t, step s = .next t
        ∧ (∀ n, t.tag n = match s.tag n with
            | .free => .free
            | .busy q got left limit => .busy q got (left - 1) limit
            | .quarantined left => .quarantined (left - 1))
        ∧ (∀ n, t.vector n = if s.device.st = .halted then s.vector n
            else { s.vector n with timer := (s.vector n).timer.map (· - 1) })
        ∧ t = { s with
          vectors := t.vectors
          link := { s.link with tags := t.link.tags }
          device := if s.device.st = .init ∧ s.card.scrub = none then { s.device with st := .ready } else s.device })

/-- The reset state has, at its strap setting, the power-on values that R6, R20, R32, R55, R74, R103, R109, R117, R130, R150, R159 and R182 give,
stands in INIT with the scrub running (R5, R189), and keeps the laws of R8 and R105. -/
def Obligations.ResetState : Prop :=
  PowerOnBlocks State.reset.device.strap State.reset State.reset ∧ State.reset.device.st = .init ∧ State.reset.card.scrub = some 0
    ∧ Isolated State.reset ∧ PoolCovered State.reset ∧ MemoryInForm State.reset

/-- R194, R189, R5: a power-on reset and a bus reset enter INIT with every block but card memory at its power-on value. The
power-on reset starts a scrub at address 0; a bus reset starts none and stops none. Outside a scrub card memory and its marks are
kept. A scrub that runs has gone on to some word before the reset, which a bus reset keeps: the words up to there hold zero and no
mark, and with no access outstanding every other word is kept (how far it gets is open, notes/assumptions/16.md). -/
def Obligations.PowerOnAndBusReset : Prop :=
  ∀ (k : BitVec 2) (s : State),
    (∃ t, exec (.powerOnReset k) s = .next t ∧ PowerOnBlocks k s t ∧ t.card.scrub = some 0)
    ∧ (∃ t, exec (.busReset k) s = .next t ∧ PowerOnBlocks k s t
        ∧ (s.card.scrub = none → t.card.scrub = none)
        ∧ ∀ n, s.card.scrub = some n → ∃ m, n ≤ m ∧ t.card.scrub = some m
          ∧ (∀ a, 8 * n ≤ a → a < 8 * m → readByte t.card.mem a = 0)
          ∧ (∀ w, n ≤ w → w < m → w ∉ t.card.marks)
          ∧ (s.card.ops = [] → (∀ a, a < 8 * n ∨ 8 * m ≤ a → readByte t.card.mem a = readByte s.card.mem a)
            ∧ ∀ w, w < n ∨ m ≤ w → (w ∈ t.card.marks ↔ w ∈ s.card.marks)))

/-- R5: the end of a scrub that has come to word `n` leaves zero in every byte from there to the strapped size and no mark there,
every other byte and mark as before, and INIT for READY; a scrub that has not yet begun, as after a power-on reset, thus zeroes all
of it. What the words below `n` hold by then, a write acknowledged after the scrub had passed among it, is the model's reading
(notes/assumptions/16.md). With no access outstanding nothing else changes. -/
def Obligations.ScrubZeroesMemory : Prop :=
  ∀ (s : State) (n : Nat), s.card.scrub = some n → s.device.st = .init → MemoryInForm s →
    ∃ t, exec .scrubComplete s = .next t ∧ t.device = { s.device with st := .ready } ∧ t.card.scrub = none
      ∧ (∀ a, 8 * n ≤ a → a < s.cardSize → readByte t.card.mem a = 0)
      ∧ (∀ a, a < 8 * n ∨ s.cardSize ≤ a → readByte t.card.mem a = readByte s.card.mem a)
      ∧ (∀ w, w ∈ t.card.marks ↔ w ∈ s.card.marks ∧ (w < n ∨ s.cardSize ≤ 8 * w))
      ∧ (s.card.ops = [] → t = { s with device := { s.device with st := .ready }
                                        card := { s.card with mem := t.card.mem, marks := t.card.marks, scrub := none } })

/-- R185: what each write to CONTROL does in each device state, with both function resets alike and at once outside INIT and without
effect in INIT; and what a read of CONTROL returns, 0 after a function reset. The tables are without parity errors where a stop
begins. -/
def Obligations.ControlWrites : Prop :=
  ∀ (enable : Bool) (s : State),
    (s.device.st = .init → exec (.functionReset enable) s = .next s ∧ exec .pcieFunctionLevelReset s = .next s)
    ∧ (s.device.st ≠ .init → ∃ t, exec (.functionReset enable) s = .next t ∧ exec .pcieFunctionLevelReset s = .next t
        ∧ FunctionResetBlocks s t ∧ t.readRegister 0x004 = 0)
    ∧ (s.device.st = .ready → ∃ t, exec .enableAttempt s = .next t
        ∧ (t.device.st = .running ∧ t.device.configError = false ∨ t.device.st = .ready ∧ t.device.configError = true))
    ∧ (s.device.st ≠ .ready → exec .enableAttempt s = .next s)
    ∧ (s.device.st = .running → TablesGood s → ∃ t, exec .stop s = .next t ∧ (t.device.st = .stopping ∨ t.device.st = .ready))
    ∧ (s.device.st ≠ .running → exec .stop s = .next s)
    ∧ s.readRegister 0x004 = if s.device.st = .running then 1 else 0

/-- R190, R160, R127, R185: an enable attempt in READY that passes enters RUNNING and takes up the admin rings; one that
fails sets CONFIG_ERROR; outside READY the write has no effect. -/
def Obligations.EnableAttempt : Prop :=
  ∀ s : State,
    let d := s.device
    let sq := (d.adminSizes.extractLsb' 0 4).toNat
    let cq := (d.adminSizes.extractLsb' 8 4).toNat
    let passes := d.adminSqBase.toNat % 4096 = 0 ∧ d.adminCqBase.toNat % 4096 = 0 ∧ 4 ≤ sq ∧ sq ≤ 8 ∧ 4 ≤ cq ∧ cq ≤ 8
    (d.st = .ready → passes → exec .enableAttempt s = .next
      { s with
        device := { d with st := .running, configError := false }
        admin := { s.admin with
          faulted := false, faultCause := none, sqBase := d.adminSqBase, cqBase := d.adminCqBase, sqSize := 2 ^ sq,
          cqSize := 2 ^ cq, sqHead := 0, sqTail := 0, cqHead := 0, reserved := 0, readOutstanding := false }
        poster := { index := 0, pass := true } })
    ∧ (d.st = .ready → ¬passes → exec .enableAttempt s = .next { s with device := { d with configError := true } })
    ∧ (d.st ≠ .ready → exec .enableAttempt s = .next s)

/-- R191, R52, R12, R174, R13: a stop in RUNNING closes every partition, keeps no answer of the deferred table, leaves no
window of a partition it closes OPEN, and keeps LOCKED windows and the admin ring registers. When the conditions for the end of
a stop hold at once, the device enters READY in the stop's own step, and no more happens. R31: a stop leaves no SETTING fence entry
behind it, in whichever step it ends (that R191's end waits for one that still counts an orphaned access is the model's reading,
notes/assumptions/25.md). -/
def Obligations.StopTaken : Prop :=
  (∀ (c : Instr) (s t : State), powerOnOrBus c = false → (∀ b, c ≠ .functionReset b) → c ≠ .pcieFunctionLevelReset →
    s.device.st = .running ∨ s.device.st = .stopping → exec c s = .next t → t.device.st = .ready → ∀ f, (t.fence f).st ≠ .setting)
  ∧ ∀ s : State, s.device.st = .running → TablesGood s →
    (∃ t, exec .stop s = .next t ∧ (t.device.st = .stopping ∨ t.device.st = .ready)
      ∧ (∀ p, (t.part p).st = .closed ∨ (t.part p).st = .closing)
      ∧ (∀ i d, look t.admin.deferred i = some d → d.post = false)
      ∧ (∀ w p, (s.window w).owner = some p → (s.part p).st ≠ .closed → (s.part p).st ≠ .closing →
          (t.window w).st ≠ .opened)
      ∧ (∀ w, (s.window w).st = .locked → (t.window w).st = .locked ∧ (t.window w).owner = (s.window w).owner
          ∧ (t.window w).cardBase = (s.window w).cardBase ∧ (t.window w).length = (s.window w).length
          ∧ (t.window w).access = (s.window w).access)
      ∧ t.device.adminSqBase = s.device.adminSqBase ∧ t.device.adminCqBase = s.device.adminCqBase
      ∧ t.device.adminSizes = s.device.adminSizes ∧ t.card.mem = s.card.mem)
    ∧ ((∀ p, (s.part p).st = .closed) → (∀ i, (s.slot i).st = .free) → s.admin.readOutstanding = false →
        (∀ i, look s.admin.deferred i = none) → s.link.queue = [] → (∀ n, (s.tag n).isBusy = false) → s.link.store = [] →
        ((∀ f, (s.fence f).st ≠ .setting) →
          exec .stop s = .next { s with device := { s.device with st := .ready }
                                        admin := { s.admin with faulted := false, faultCause := none, reserved := 0 }
                                        draws := s.draws + 1 })
        ∧ (∀ f, (s.fence f).st = .setting →
          exec .stop s = .next { s with device := { s.device with st := .stopping }, draws := s.draws + 1 }))

/-! ### Registers -/

/-- R187: the admin ring registers take writes only in READY, whole or by halves, except the unlisted bits of
ADMIN_SIZES; a read returns the stored value; power-on and bus reset clear them, a function reset and a stop keep them. -/
def Obligations.AdminRegisterWrites : Prop :=
  ∀ (s : State) (v : BitVec 64) (h z : BitVec 32) (k : BitVec 2) (b : Bool),
    let d := s.device
    (d.st = .ready →
      exec (.adminSqBaseWrite (.full v)) s = .next { s with device := { d with adminSqBase := v } }
      ∧ exec (.adminSqBaseWrite (.low h)) s = .next { s with device := { d with adminSqBase := d.adminSqBase.extractLsb' 32 32 ++ h } }
      ∧ exec (.adminSqBaseWrite (.high h)) s = .next { s with device := { d with adminSqBase := h ++ d.adminSqBase.extractLsb' 0 32 } }
      ∧ exec (.adminCqBaseWrite (.full v)) s = .next { s with device := { d with adminCqBase := v } }
      ∧ exec (.adminCqBaseWrite (.low h)) s = .next { s with device := { d with adminCqBase := d.adminCqBase.extractLsb' 32 32 ++ h } }
      ∧ exec (.adminCqBaseWrite (.high h)) s = .next { s with device := { d with adminCqBase := h ++ d.adminCqBase.extractLsb' 0 32 } }
      ∧ exec (.adminSizesWrite z) s = .next { s with device := { d with adminSizes := z &&& 0x00000F0F#32 } })
    ∧ (d.st ≠ .ready → ∀ a, exec (.adminSqBaseWrite a) s = .next s ∧ exec (.adminCqBaseWrite a) s = .next s
        ∧ exec (.adminSizesWrite z) s = .next s)
    ∧ s.readRegister 0x010 = d.adminSqBase.extractLsb' 0 32 ∧ s.readRegister 0x014 = d.adminSqBase.extractLsb' 32 32
    ∧ s.readRegister 0x018 = d.adminCqBase.extractLsb' 0 32 ∧ s.readRegister 0x01C = d.adminCqBase.extractLsb' 32 32
    ∧ s.readRegister 0x020 = d.adminSizes
    ∧ (∀ c ∈ [Instr.powerOnReset k, .busReset k], ∀ t, exec c s = .next t →
        t.device.adminSqBase = 0 ∧ t.device.adminCqBase = 0 ∧ t.device.adminSizes = 0)
    ∧ (∀ c ∈ [Instr.functionReset b, .pcieFunctionLevelReset, .stop], ∀ t, exec c s = .next t →
        t.device.adminSqBase = d.adminSqBase ∧ t.device.adminCqBase = d.adminCqBase ∧ t.device.adminSizes = d.adminSizes)

/-- R183, R184, R185, R186: the fields of IDENT, CONTROL and STATUS; unlisted bits read 0, and so do NOTIFY and every
offset not in the table. A read of STATUS returns its value from before the clearing and clears NOTIFY_REJECTED, and nothing
else; an ignored register write changes nothing. -/
def Obligations.RegisterReads : Prop :=
  ∀ (s : State) (offset : BitVec 12) (at' : BitVec 12) (width : Nat) (value : BitVec 64),
    exec .statusRead s = .next { s with device := { s.device with readData := s.readRegister 0x008, notifyRejected := false } }
    ∧ exec (.registerWriteIgnored at' width value) s = .next s ∧
    let ident := s.readRegister 0x000
    let control := s.readRegister 0x004
    let status := s.readRegister 0x008
    ident.extractLsb' 16 16 = 0xCD16#16 ∧ ident.extractLsb' 12 4 = 1#4
    ∧ ident.extractLsb' 10 2 = (if s.device.strap = 1 then 1#2 else if s.device.strap = 2 then 2#2 else 0#2)
    ∧ ident.extractLsb' 5 5 = 31#5 ∧ ident.extractLsb' 1 4 = 15#4 ∧ ident.extractLsb' 0 1 = 0#1
    ∧ control = (if s.device.st = .running then 1#32 else 0#32)
    ∧ status.extractLsb' 0 3 = (match s.device.st with
        | .init => 0#3 | .ready => 1#3 | .running => 2#3 | .stopping => 3#3 | .halted => 4#3)
    ∧ status.getLsbD 3 = s.admin.faulted
    ∧ status.extractLsb' 4 2 = (if s.admin.faulted = true then (match s.admin.faultCause with
        | none => 0#2 | some .fetchError => 1#2 | some .sqIndex => 2#2 | some .cqIndex => 3#2) else 0#2)
    ∧ status.getLsbD 8 = s.device.configError ∧ status.getLsbD 9 = s.device.notifyRejected
    ∧ status.extractLsb' 12 2 = (match s.device.haltCause with
        | none => 0#2 | some .windowTable => 1#2 | some .slotMemory => 2#2 | some .partitionTable => 3#2)
    ∧ status.extractLsb' 6 2 = 0#2 ∧ status.extractLsb' 10 2 = 0#2 ∧ status.extractLsb' 14 18 = 0#18
    ∧ (offset ∉ [0x000#12, 0x004#12, 0x008#12, 0x010#12, 0x014#12, 0x018#12, 0x01C#12, 0x020#12] → s.readRegister offset = 0)

/-! ### NOTIFY -/

/-- R188, R43, R44, R152: a NOTIFY outside RUNNING, or with a selector from 35, is rejected: NOTIFY_REJECTED is set and
nothing else changes. -/
def Obligations.NotifyRejected : Prop :=
  ∀ (s : State) (p : PNum) (index : BitVec 16) (selector : BitVec 8),
    let rejected := { s with device := { s.device with notifyRejected := true } }
    exec (.notifyBadSelector selector index) s = .next rejected
    ∧ (s.device.st ≠ .running →
        exec (.notifySqTail p index) s = .next rejected ∧ exec (.notifyCqHead p index) s = .next rejected
        ∧ exec (.notifyAdminSqTail index) s = .next rejected ∧ exec (.notifyAdminCqHead index) s = .next rejected
        ∧ exec (.notifyEventRingHead index) s = .next rejected)

/-- R43, R61: a submission ring tail is rejected in CLOSED, recorded when in range, and ignored out of range in FAULTED and
CLOSING; a recorded tail lets a waiting group read its next record in OPEN and QUIESCING. That a record's address is taken modulo 2^64
is the model's choice (notes/assumptions/26.md). -/
def Obligations.SqTailTaken : Prop :=
  ∀ (s : State) (p : PNum) (index : BitVec 16),
    let y := s.part p
    let recorded := s.withPart p fun y => { y with sqTail := index.toNat }
    s.device.st = .running → y.parityOk = true →
    (y.st = .closed → exec (.notifySqTail p index) s = .next { s with device := { s.device with notifyRejected := true } })
    ∧ (y.st = .faulted ∨ y.st = .closing → y.sqSize ≤ index.toNat → exec (.notifySqTail p index) s = .next s)
    ∧ (y.st ≠ .closed → index.toNat < y.sqSize →
        (∀ a, s.assembling p = some a → a.readOutstanding = true ∨ y.sqHead = index.toNat ∨ (y.st ≠ .opened ∧ y.st ≠ .quiescing)) →
        exec (.notifySqTail p index) s = .next recorded)
    ∧ (∀ a, (y.st = .opened ∨ y.st = .quiescing) → index.toNat < y.sqSize → s.assembling p = some a →
        a.readOutstanding = false → y.sqHead ≠ index.toNat → (y.sqBase.toNat + 64 * y.sqHead) % 64 = 0 →
        exec (.notifySqTail p index) s = .next
          ((recorded.withAssembling p (some { a with readOutstanding := true })).withLink fun l =>
            { l with queue := l.queue ++
                [{ requester := .record a.slot, addr := y.sqBase + BitVec.ofNat 64 (64 * y.sqHead), len := 64, place := 0 }] }))

/-- R45, R46, R43, R44: a tail out of range or a head that is not valid faults an OPEN, QUIESCING or QUIESCED partition with
its cause; the index is not recorded, and sq_head, and after a CQ_INDEX fault the completion ring, stay. With no slot to abort and
no quiesce pending that fault and its PARTITION_FAULT event are all that happens. -/
def Obligations.BadIndexFaultsPartition : Prop :=
  ∀ (s : State) (p : PNum) (index : BitVec 16),
    let y := s.part p
    let faulted (c : FaultCause) := ({ s with draws := s.draws + 1 }.withPart p fun y =>
      { y with st := .faulted, faultCause := some c, pendingTag := none }).handOver (.partitionFault p c)
    let quiet := (∀ i, (s.slot i).st ≠ .free → (s.slot i).partition ≠ p) ∧ s.deferredAt .partitionQuiesce p.val = none
    let badHead := ¬HeadValid index.toNat y.cqHead y.cqTail y.cqSize
    s.device.st = .running → TablesGood s → (y.st = .opened ∨ y.st = .quiescing ∨ y.st = .quiesced) →
    (y.sqSize ≤ index.toNat → ∃ t, exec (.notifySqTail p index) s = .next t ∧ (t.part p).st = .faulted
      ∧ (t.part p).faultCause = some .sqIndex ∧ (t.part p).sqTail = y.sqTail ∧ (t.part p).sqHead = y.sqHead)
    ∧ (badHead → ∃ t, exec (.notifyCqHead p index) s = .next t
      ∧ (t.part p).st = .faulted ∧ (t.part p).faultCause = some .cqIndex ∧ (t.part p).cqHead = y.cqHead
      ∧ (t.part p).cqTail = y.cqTail ∧ (t.part p).cqPass = y.cqPass)
    ∧ (y.sqSize ≤ index.toNat → quiet → exec (.notifySqTail p index) s = .next (faulted .sqIndex))
    ∧ (badHead → quiet → exec (.notifyCqHead p index) s = .next (faulted .cqIndex))

/-- R44, R128: a valid completion ring head is recorded and reported to the partition's vector; an invalid one is ignored
in FAULTED and CLOSING; in CLOSED every head is rejected. -/
def Obligations.CqHeadTaken : Prop :=
  ∀ (s : State) (p : PNum) (index : BitVec 16),
    let y := s.part p
    s.device.st = .running → y.parityOk = true →
    (y.st = .closed → exec (.notifyCqHead p index) s = .next { s with device := { s.device with notifyRejected := true } })
    ∧ (y.st ≠ .closed → HeadValid index.toNat y.cqHead y.cqTail y.cqSize →
        exec (.notifyCqHead p index) s = .next ((s.withPart p fun y => { y with cqHead := index.toNat }).consumeWrite (partVector p)))
    ∧ (y.st = .faulted ∨ y.st = .closing → ¬HeadValid index.toNat y.cqHead y.cqTail y.cqSize →
        exec (.notifyCqHead p index) s = .next s)

/-- R162: an admin submission ring tail in RUNNING is recorded when in range, and otherwise faults a NORMAL channel SQ_INDEX and is
ignored in FAULTED; outside RUNNING it is rejected; and a take-up sets sq_tail to 0. -/
def Obligations.AdminTailTaken : Prop :=
  ∀ (s : State) (index : BitVec 16),
    let run := exec (.notifyAdminSqTail index) s
    (s.device.st ≠ .running → run = .next { s with device := { s.device with notifyRejected := true } })
    ∧ (s.device.st = .running →
        (index.toNat < s.admin.sqSize → run = .next { s with admin := { s.admin with sqTail := index.toNat } })
        ∧ (s.admin.sqSize ≤ index.toNat → s.admin.faulted = true → run = .next s)
        ∧ (s.admin.sqSize ≤ index.toNat → s.admin.faulted = false →
            run = .next (State.handOver { s with admin := faultedChannel s.admin .sqIndex } (.adminFault .sqIndex))))
    ∧ (s.device.st = .ready → ∀ t, exec .enableAttempt s = .next t → t.device.st = .running → t.admin.sqTail = 0)

/-- R170, R171: an admin completion ring head in RUNNING is recorded and reported to vector 16 when valid, and otherwise
faults a NORMAL channel CQ_INDEX and is ignored in FAULTED. R152, R154: a valid event ring head is recorded and reported to
vector 17, after the EVENTS_LOST record that a pending lost count brings when the ring then has room; an invalid one, or one for
an unconfigured ring, is rejected. -/
def Obligations.AdminAndEventHeadsTaken : Prop :=
  (∀ (s : State) (index : BitVec 16),
    let run := exec (.notifyAdminCqHead index) s
    let valid := HeadValid index.toNat s.admin.cqHead s.poster.index s.admin.cqSize
    s.device.st = .running →
    (valid → run = .next (State.consumeWrite { s with admin := { s.admin with cqHead := index.toNat } } adminVector))
    ∧ (¬valid → s.admin.faulted = true → run = .next s)
    ∧ (¬valid → s.admin.faulted = false →
        run = .next (State.handOver { s with admin := faultedChannel s.admin .cqIndex } (.adminFault .cqIndex))))
  ∧ ∀ (s : State) (index : BitVec 16),
    let r := s.events
    let run := exec (.notifyEventRingHead index) s
    let valid := r.configured = true ∧ HeadValid index.toNat r.head r.tail r.size
    let room := ringSpan r.tail index.toNat r.size + 1 < r.size
    let recorded := s.withEvents fun r => { r with head := index.toNat }
    s.device.st = .running →
    (valid → (r.lost = 0 ∨ ¬room) → run = .next (recorded.consumeWrite eventVector))
    ∧ (valid → 0 < r.lost → room →
        run = .next (((recorded.writeEvent (.eventsLost r.lost)).withEvents fun r => { r with lost := 0 }).consumeWrite eventVector))
    ∧ (¬valid → run = .next { s with device := { s.device with notifyRejected := true } })

/-! ### The administrative channel -/

/-- R163, R161, R176: when its five conditions hold the Admin Engine reserves a completion entry and asks for the 64 bytes of
the command at sq_head; otherwise it reads nothing. That the command's address is taken modulo 2^64 is the model's choice
(notes/assumptions/26.md). -/
def Obligations.AdminReadIssued : Prop :=
  ∀ s : State,
    let a := s.admin
    let may := s.device.st = .running ∧ a.faulted = false ∧ a.readOutstanding = false ∧ a.sqHead ≠ a.sqTail
      ∧ a.reserved + ringSpan s.poster.index a.cqHead a.cqSize + 1 < a.cqSize
    (may → a.sqBase.toNat % 64 = 0 → exec .adminCommandReadIssue s = .next
      { s with
        admin := { a with reserved := a.reserved + 1, readOutstanding := true }
        link := { s.link with queue := s.link.queue ++
          [{ requester := .admin, addr := a.sqBase + BitVec.ofNat 64 (64 * a.sqHead), len := 64, place := 0 }] } })
    ∧ (¬may → exec .adminCommandReadIssue s = .next s)

/-- R127: an admin completion is one 16-byte write to the entry at the producer index with the current marker; the index
advances, the marker flips at 0, the reservation becomes the record, and vector 16 sees a record that is not urgent. R199: the
record's fields: tag, opcode, status code, detail, pass marker, and zero in the reserved bytes. That the entry's address is taken modulo
2^64 is the model's choice (notes/assumptions/26.md). -/
def Obligations.AdminCompletionWritten : Prop :=
  ∀ (s : State) (opcode : Nat) (tag : Tag) (status : AdminStatus) (detail : Nat),
    let i := (s.poster.index + 1) % s.admin.cqSize
    let bytes := adminBytes tag opcode status detail s.poster.pass
    s.adminComplete opcode tag status detail = State.newRecord
      { s with
        link := { s.link with store := s.link.store ++
          [{ kind := .adminCompletion, addr := s.admin.cqBase + BitVec.ofNat 64 (16 * s.poster.index),
             bytes }] }
        poster := { index := i, pass := if i = 0 then !s.poster.pass else s.poster.pass }
        admin := { s.admin with reserved := s.admin.reserved - 1 } } 16 false
    ∧ bytes.length = 16 ∧ field bytes 0 2 = tag.toNat ∧ (opcode < 256 → field bytes 2 1 = opcode)
    ∧ field bytes 3 1 = (match status with
        | .ok => 0x00 | .unknownOpcode => 0x01 | .badParam => 0x02 | .state => 0x03 | .locked => 0x04 | .overlap => 0x05 | .limit => 0x06
        | .poolBusy => 0x07 | .inUse => 0x08 | .deferFull => 0x09 | .cancelled => 0x0A | .superseded => 0x0B | .faulted => 0x0C)
    ∧ (detail < 256 → field bytes 4 1 = detail) ∧ field bytes 5 2 = 0
    ∧ field bytes 7 1 = (if s.poster.pass = true then 128 else 0) ∧ field bytes 8 8 = 0

/-- R164, R195, R166: a command with a non-zero reserved byte is refused BAD_PARAM, and an opcode that names no command is
refused UNKNOWN_OPCODE; either changes nothing but the channel, and its completion is written at once. R172, R174: a command
read that returns after a channel fault in RUNNING is discarded: its tag is freed, no command is executed and sq_head does not
advance. -/
def Obligations.CommandsTurnedAway : Prop :=
  (∀ (s : State) (n : TNum) (command : Instr), s.adminTag = some n → s.device.st = .running → s.admin.faulted = true →
    (∃ bs : List Byte, decodeCommand bs = command) →
    exec command s = .next ((s.withTag n fun _ => .free).withAdmin fun a => { a with readOutstanding := false }))
  ∧ ∀ (s : State) (n : TNum) (tag : Tag) (a b c d e f : BitVec 8) (h : BitVec 16) (u v : BitVec 64) (z : BitVec 32),
    CommandReady s n →
    let bad (opcode : Nat) := (s.taken n).adminComplete opcode tag .badParam 0
    exec (.partitionOpen tag true a b c d e f u v) s = .next (bad 0x01) ∧ exec (.partitionQuiesce tag true a) s = .next (bad 0x02)
    ∧ exec (.partitionResume tag true a) s = .next (bad 0x03) ∧ exec (.partitionClose tag true a) s = .next (bad 0x04)
    ∧ exec (.reportCounters tag true a b u) s = .next (bad 0x05) ∧ exec (.dispositionSet tag true a b c) s = .next (bad 0x06)
    ∧ exec (.windowOpen tag true a b c u v) s = .next (bad 0x10) ∧ exec (.windowLock tag true a) s = .next (bad 0x11)
    ∧ exec (.windowClose tag true a) s = .next (bad 0x12) ∧ exec (.fenceSet tag true a u v) s = .next (bad 0x18)
    ∧ exec (.fenceClear tag true a) s = .next (bad 0x19) ∧ exec (.fenceLock tag true) s = .next (bad 0x1A)
    ∧ exec (.poolSet tag true a b c) s = .next (bad 0x20) ∧ exec (.poolWatermark tag true a) s = .next (bad 0x21)
    ∧ exec (.vectorSet tag true a b c d u z) s = .next (bad 0x28) ∧ exec (.eventRingSet tag true h u) s = .next (bad 0x30)
    ∧ exec (.linkSet tag true h) s = .next (bad 0x38)
    ∧ exec (.unknownOpcode a tag) s = .next ((s.taken n).adminComplete a.toNat tag .unknownOpcode 0)

/-! ### Partition commands -/

/-- R34, R35, R114, R117: PARTITION_OPEN is refused BAD_PARAM, STATE, POOL_BUSY or LIMIT, in that order, and otherwise fills the
entry, enters the reserve into the pool with the watermark re-evaluated, and completes OK. -/
def Obligations.PartitionOpened : Prop :=
  ∀ (s : State) (n : TNum) (tag : Tag) (q sl cl d r l : BitVec 8) (sb cb : HostAddr), CommandReady s n →
    let legal := q.toNat < 16 ∧ 4 ≤ sl.toNat ∧ sl.toNat ≤ 12 ∧ 4 ≤ cl.toNat ∧ cl.toNat ≤ 12 ∧ sb.toNat % 4096 = 0
      ∧ cb.toNat % 4096 = 0 ∧ 1 ≤ d.toNat ∧ d.toNat ≤ 16 ∧ r.toNat ≤ 96 ∧ 1 ≤ l.toNat ∧ l.toNat ≤ 128 ∧ r.toNat ≤ l.toNat
    let run := exec (.partitionOpen tag false q sl cl d r l sb cb) s
    (¬legal → run = .next ((s.taken n).adminComplete 0x01 tag .badParam 0)) ∧
    ∀ p : PNum, q.toNat = p.val → legal →
    let sum := total fun k : PNum => if (s.part k).st = .closed then 0 else (s.part k).reserve
    let refused (status : AdminStatus) := (s.taken n).adminComplete 0x01 tag status 0
    let opened := (s.taken n).withPart p fun _ =>
      { st := .opened, sqBase := sb, sqSize := 2 ^ sl.toNat, sqHead := 0, sqTail := 0, cqBase := cb, cqSize := 2 ^ cl.toNat,
        cqTail := 0, cqHead := 0, cqPass := true, cqReserved := 0, depth := d.toNat, slotsHeld := 0, reserve := r.toNat,
        limit := l.toNat, held := 0,
        dispositions := { window := .reportEvent, fenced := .reportEvent, hostRead := .report, cardEcc := .reportEvent,
                          malformed := .report },
        groupsOk := 0, groupsFailed := 0, bytesMoved := 0, bufferWaits := 0, faultCause := none, pendingTag := none,
        parityOk := true }
    ((s.part p).st ≠ .closed → run = .next (refused .state))
    ∧ ((s.part p).st = .closed → s.sharedFree < r.toNat → run = .next (refused .poolBusy))
    ∧ ((s.part p).st = .closed → r.toNat ≤ s.sharedFree → 96 < sum + r.toNat → run = .next (refused .limit))
    ∧ ((s.part p).st = .closed → r.toNat ≤ s.sharedFree → sum + r.toNat ≤ 96 →
        run = .next ((if r = 0 then opened else opened.evalWatermark).adminComplete 0x01 tag .ok 0))

/-- R36, R167: the outcomes of PARTITION_QUIESCE by partition number, state, slots_held and room in the deferred table. -/
def Obligations.PartitionQuiesced : Prop :=
  ∀ (s : State) (n : TNum) (tag : Tag) (q : BitVec 8), CommandReady s n →
    let u := s.taken n
    let run := exec (.partitionQuiesce tag false q) s
    (16 ≤ q.toNat → run = .next (u.adminComplete 0x02 tag .badParam 0)) ∧
    ∀ p : PNum, q.toNat = p.val →
    let y := s.part p
    (y.st = .opened → y.slotsHeld = 0 →
      run = .next ((u.withPart p fun y => { y with st := .quiesced }).adminComplete 0x02 tag .ok 0))
    ∧ (y.st = .opened → 0 < y.slotsHeld → ∀ i, look s.admin.deferred i = none → (∀ j < i, look s.admin.deferred j ≠ none) →
        run = .next ((u.withPart p fun y => { y with st := .quiescing, pendingTag := some tag }).setDeferred i
          (some { op := .partitionQuiesce, tag, object := p.val, post := true, report := none })))
    ∧ (y.st = .opened → 0 < y.slotsHeld → (∀ i, look s.admin.deferred i ≠ none) → run = .next (u.adminComplete 0x02 tag .deferFull 0))
    ∧ (y.st = .quiesced → run = .next (u.adminComplete 0x02 tag .ok 0))
    ∧ (y.st = .quiescing ∨ y.st = .faulted ∨ y.st = .closing ∨ y.st = .closed → run = .next (u.adminComplete 0x02 tag .state 0))

/-- R38, R165, R168: PARTITION_RESUME refuses a partition number above 15 with BAD_PARAM and moves a QUIESCED or QUIESCING partition to
OPEN and completes OK, after the pending quiesce has completed CANCELLED and its table entry is freed; other states refuse it. -/
def Obligations.PartitionResumed : Prop :=
  ∀ (s : State) (n : TNum) (tag : Tag) (q : BitVec 8), CommandReady s n →
    let u := s.taken n
    let run := exec (.partitionResume tag false q) s
    (16 ≤ q.toNat → run = .next (u.adminComplete 0x03 tag .badParam 0)) ∧
    ∀ p : PNum, q.toNat = p.val →
    let y := s.part p
    (y.st = .quiesced → run = .next ((u.withPart p fun y => { y with st := .opened }).adminComplete 0x03 tag .ok 0))
    ∧ (∀ i d, y.st = .quiescing → s.deferredAt .partitionQuiesce p.val = some i → look s.admin.deferred i = some d →
        d.post = true →
        run = .next ((((u.withPart p fun y => { y with st := .opened, pendingTag := none }).setDeferred i none).adminComplete
          0x02 d.tag .cancelled 0).adminComplete 0x03 tag .ok 0))
    ∧ (y.st = .opened ∨ y.st = .faulted ∨ y.st = .closing ∨ y.st = .closed → run = .next (u.adminComplete 0x03 tag .state 0))

/-- R39, R40, R12, R169: PARTITION_CLOSE is refused BAD_PARAM for a number above 15, STATE in CLOSED and CLOSING, and DEFER_FULL when
it would wait without a table entry. With no slot occupied and no requester waiting for a buffer it closes at once; with slots it
leaves the partition CLOSING, or CLOSED when they all end in the step, and none of its windows OPEN. In QUIESCING it answers the
pending quiesce SUPERSEDED and takes over its entry: exactly that, with the windows acted on and the abort request recorded, where the
one occupied slot already drains or posts. -/
def Obligations.PartitionClosed : Prop :=
  ∀ (s : State) (n : TNum) (tag : Tag) (q : BitVec 8), CommandReady s n →
    let u := s.taken n
    let run := exec (.partitionClose tag false q) s
    (16 ≤ q.toNat → run = .next (u.adminComplete 0x04 tag .badParam 0)) ∧
    ∀ p : PNum, q.toNat = p.val →
    let y := s.part p
    let taken (w : Window) : Window := if w.owner = some p ∧ w.st = .opened then
        (if w.refs = 0 then { w with st := .free, owner := none, refs := 0, closeTag := none }
         else { w with st := .retiring, closeTag := none })
      else w
    let closed := ({ u with windows := mapTab (fun _ w => taken w) u.windows }).withPart p fun y =>
      { y with st := .closed, pendingTag := none }
    (y.st = .closed ∨ y.st = .closing → run = .next (u.adminComplete 0x04 tag .state 0))
    ∧ (y.st = .opened ∨ y.st = .quiesced ∨ y.st = .faulted → 0 < y.slotsHeld → (∀ i, look s.admin.deferred i ≠ none) →
        run = .next (u.adminComplete 0x04 tag .deferFull 0))
    ∧ (y.st = .opened ∨ y.st = .quiesced ∨ y.st = .faulted → y.slotsHeld = 0 → s.pool.waiting = [] →
        s.deferredAt .partitionClose p.val = none → s.deferredAt .partitionQuiesce p.val = none →
        run = .next ((closed.reevaluate s.sharedFree).adminComplete 0x04 tag .ok 0))
    ∧ (0 < y.slotsHeld → ((y.st = .opened ∨ y.st = .quiesced ∨ y.st = .faulted) ∧ (∃ i, look s.admin.deferred i = none))
          ∨ (y.st = .quiescing ∧ s.deferredAt .partitionQuiesce p.val ≠ none) →
        ∃ t, run = .next t ∧ ((t.part p).st = .closing ∨ (t.part p).st = .closed)
          ∧ (∀ w, (t.window w).owner = some p → (t.window w).st ≠ .opened)
          ∧ (∀ w, (s.window w).st = .locked → (t.window w).st = .locked))
    ∧ (∀ (j : Fin 8) (d : Deferred) (last : Fin 32), y.st = .quiescing → 0 < y.slotsHeld → s.deferredAt .partitionQuiesce p.val = some j →
        look s.admin.deferred j = some d → d.post = true → (s.slot last).partition = p →
        (s.slot last).st = .draining ∨ (s.slot last).st = .posting →
        (∀ k ≠ last, (s.slot k).st ≠ .free → (s.slot k).partition ≠ p) →
        let answered := (u.adminComplete 0x02 d.tag .superseded 0).setDeferred j
          (some { op := .partitionClose, tag, object := p.val, post := true, report := none })
        let closing := ({ answered with
            windows := mapTab (fun _ w => taken w) answered.windows, draws := answered.draws + 1 }).withPart p fun y =>
          { y with st := .closing, pendingTag := some tag }
        run = .next ((closing.withSlot last fun x => { x with abort := some (x.abort.getD .partitionClose) }).withPool fun q =>
          { q with waiting := q.waiting.filter fun x => decide (x.1 ≠ last) }))

/-- R50, R49, R201, R165: REPORT_COUNTERS refuses a partition, a clear flag or an address out of range with BAD_PARAM and CLOSED with
STATE; otherwise it writes the 32-byte report of the partition's number, state, fault cause and counters before its completion, and
clears the counters only when asked. -/
def Obligations.CountersReported : Prop :=
  ∀ (s : State) (n : TNum) (tag : Tag) (q c : BitVec 8) (address : HostAddr), CommandReady s n →
    let u := s.taken n
    let legal := q.toNat < 16 ∧ c.toNat ≤ 1 ∧ address.toNat % 32 = 0
    (¬legal → exec (.reportCounters tag false q c address) s = .next (u.adminComplete 0x05 tag .badParam 0)) ∧
    ∀ p : PNum, q.toNat = p.val → legal →
    let y := s.part p
    let bytes := reportBytes p y
    let reported := u.postWrite { kind := .counterReport, addr := address, bytes }
    (y.st = .closed → exec (.reportCounters tag false q c address) s = .next (u.adminComplete 0x05 tag .state 0))
    ∧ (y.st ≠ .closed → exec (.reportCounters tag false q c address) s = .next ((if c = 1 then
        reported.withPart p fun y => { y with groupsOk := 0, groupsFailed := 0, bytesMoved := 0, bufferWaits := 0 }
        else reported).adminComplete 0x05 tag .ok 0))
    ∧ bytes.length = 32 ∧ field bytes 0 1 = p.val ∧ field bytes 8 4 = y.groupsOk.toNat ∧ field bytes 12 4 = y.groupsFailed.toNat
    ∧ field bytes 16 8 = y.bytesMoved.toNat ∧ field bytes 24 4 = y.bufferWaits.toNat ∧ field bytes 3 5 = 0 ∧ field bytes 28 4 = 0
    ∧ (y.st ≠ .closed → field bytes 1 1 = (match y.st with
        | .closed => 0 | .opened => 1 | .quiescing => 2 | .quiesced => 3 | .faulted => 4 | .closing => 5))
    ∧ field bytes 2 1 = (match y.faultCause with
        | none => 0 | some .fetchError => 1 | some .sqIndex => 2 | some .cqIndex => 3 | some .haltDisposition => 4)

/-- R147: DISPOSITION_SET refuses a partition, a class or a disposition out of range with BAD_PARAM and a CLOSED partition with STATE;
in every other state it replaces the disposition of the named class and leaves the other four, and completes OK. -/
def Obligations.DispositionReplaced : Prop :=
  ∀ (s : State) (n : TNum) (tag : Tag) (q c v : BitVec 8), CommandReady s n →
    let u := s.taken n
    let run := exec (.dispositionSet tag false q c v) s
    let legal := q.toNat < 16 ∧ 1 ≤ c.toNat ∧ c.toNat ≤ 5 ∧ v.toNat ≤ 2
    let value : Disposition := if v = 0 then .report else if v = 1 then .reportEvent else .halt
    (¬legal → run = .next (u.adminComplete 0x06 tag .badParam 0))
    ∧ ∀ p : PNum, q.toNat = p.val → legal →
      let d := (s.part p).dispositions
      let d' := if c = 1 then { d with window := value } else if c = 2 then { d with fenced := value }
        else if c = 3 then { d with hostRead := value } else if c = 4 then { d with cardEcc := value } else { d with malformed := value }
      ((s.part p).st = .closed → run = .next (u.adminComplete 0x06 tag .state 0))
      ∧ ((s.part p).st ≠ .closed →
          run = .next ((u.withPart p fun y => { y with dispositions := d' }).adminComplete 0x06 tag .ok 0))

/-! ### Window commands -/

/-- R7, R8, R9: WINDOW_OPEN is refused BAD_PARAM, STATE, LIMIT or OVERLAP with the lowest conflicting window, in that order, and
otherwise fills the entry and completes OK. -/
def Obligations.WindowOpened : Prop :=
  ∀ (s : State) (n : TNum) (tag : Tag) (x o a : BitVec 8) (base length : BitVec 64), CommandReady s n →
    let u := s.taken n
    let access : Access := if a = 1 then .read else if a = 2 then .write else .readWrite
    let run := exec (.windowOpen tag false x o a base length) s
    let legal := x.toNat < 64 ∧ o.toNat < 16 ∧ 1 ≤ a.toNat ∧ a.toNat ≤ 3 ∧ base.toNat % 4096 = 0 ∧ length.toNat % 4096 = 0
      ∧ 4096 ≤ length.toNat ∧ base.toNat + length.toNat ≤ s.cardSize
    (¬legal → run = .next (u.adminComplete 0x10 tag .badParam 0)) ∧
    ∀ (w : WNum) (p : PNum), x.toNat = w.val → o.toNat = p.val → legal →
    let mine := (which fun v : WNum => decide ((s.window v).st ≠ .free) && decide ((s.window v).owner = some p)).length
    let conflicts (v : WNum) : Prop := (s.window v).st ≠ .free ∧ (s.window v).owner ≠ some p
      ∧ (s.window v).cardBase < base.toNat + length.toNat ∧ base.toNat < (s.window v).cardBase + (s.window v).length
      ∧ ((s.window v).access ≠ .read ∨ access ≠ .read)
    let ready := (s.window w).st = .free ∧ ((s.part p).st = .opened ∨ (s.part p).st = .quiesced)
    (¬ready → run = .next (u.adminComplete 0x10 tag .state 0))
    ∧ (ready → 16 ≤ mine → run = .next (u.adminComplete 0x10 tag .limit 0))
    ∧ (∀ v, ready → mine < 16 → conflicts v → (∀ j < v, ¬conflicts j) → run = .next (u.adminComplete 0x10 tag .overlap v.val))
    ∧ (ready → mine < 16 → (∀ v, ¬conflicts v) →
        run = .next ((u.withWindow w fun _ =>
          { st := .opened, owner := some p, cardBase := base.toNat, length := length.toNat, access, refs := 0,
            closeTag := none, parityOk := true }).adminComplete 0x10 tag .ok 0))

/-- R10: WINDOW_LOCK refuses a number outside 0-63 with BAD_PARAM, moves an OPEN window to LOCKED and keeps the rest of its
record, and is refused STATE in FREE, LOCKED and RETIRING; later member starts pass the checks as before. -/
def Obligations.WindowLocked : Prop :=
  ∀ (s : State) (n : TNum) (tag : Tag) (x : BitVec 8), CommandReady s n →
    let u := s.taken n
    let run := exec (.windowLock tag false x) s
    (64 ≤ x.toNat → run = .next (u.adminComplete 0x11 tag .badParam 0))
    ∧ (∀ w : WNum, x.toNat = w.val →
        ((s.window w).st = .opened →
          run = .next ((u.withWindow w fun y => { y with st := .locked }).adminComplete 0x11 tag .ok 0)
          ∧ ∀ p len o, (s.withWindow w fun y => { y with st := .locked }).checkOperand p len o = s.checkOperand p len o)
        ∧ ((s.window w).st = .free ∨ (s.window w).st = .locked ∨ (s.window w).st = .retiring →
            run = .next (u.adminComplete 0x11 tag .state 0)))

/-- R11, R167: the outcomes of WINDOW_CLOSE by window state, refs and room in the deferred table. -/
def Obligations.WindowClosed : Prop :=
  ∀ (s : State) (n : TNum) (tag : Tag) (x : BitVec 8), CommandReady s n →
    let u := s.taken n
    let run := exec (.windowClose tag false x) s
    (64 ≤ x.toNat → run = .next (u.adminComplete 0x12 tag .badParam 0))
    ∧ (∀ w : WNum, x.toNat = w.val →
        ((s.window w).st = .free ∨ (s.window w).st = .retiring → run = .next (u.adminComplete 0x12 tag .state 0))
        ∧ ((s.window w).st = .locked → run = .next (u.adminComplete 0x12 tag .locked 0))
        ∧ ((s.window w).st = .opened → (s.window w).refs = 0 →
            run = .next ((u.withWindow w fun y => { y with st := .free, owner := none, refs := 0, closeTag := none }).adminComplete
              0x12 tag .ok 0))
        ∧ ((s.window w).st = .opened → 0 < (s.window w).refs → (∀ i, look s.admin.deferred i ≠ none) →
            run = .next (u.adminComplete 0x12 tag .deferFull 0))
        ∧ (∀ i, (s.window w).st = .opened → 0 < (s.window w).refs → look s.admin.deferred i = none →
            (∀ j < i, look s.admin.deferred j ≠ none) →
            run = .next ((u.withWindow w fun y => { y with st := .retiring, closeTag := some tag }).setDeferred i
              (some { op := .windowClose, tag, object := w.val, post := true, report := none }))))

/-! ### Fence commands and the fence check -/

/-- R25, R26: FENCE_SET is refused BAD_PARAM, LOCKED, IN_USE or DEFER_FULL, in that order; otherwise the entry is in force at once: ACTIVE
when no access record overlaps the range, and else SETTING with the count of those that do, each of them marked. -/
def Obligations.FenceSet : Prop :=
  ∀ (s : State) (n : TNum) (tag : Tag) (x : BitVec 8) (base length : BitVec 64), CommandReady s n →
    let u := s.taken n
    let run := exec (.fenceSet tag false x base length) s
    let legal := x.toNat < 8 ∧ base.toNat % 4096 = 0 ∧ length.toNat % 4096 = 0 ∧ 4096 ≤ length.toNat
      ∧ base.toNat + length.toNat ≤ s.cardSize
    (¬legal → run = .next (u.adminComplete 0x18 tag .badParam 0)) ∧
    ∀ f : FNum, x.toNat = f.val → legal →
    let hit (r : AccessRecord) : Bool := decide (r.base < base.toNat + length.toNat) && decide (base.toNat < r.base + r.len)
    let count := (s.fences.records.filter hit).length
    let ready := s.fences.locked = false ∧ (s.fence f).st = .empty
    (s.fences.locked = true → run = .next (u.adminComplete 0x18 tag .locked 0))
    ∧ (s.fences.locked = false → (s.fence f).st ≠ .empty → run = .next (u.adminComplete 0x18 tag .inUse 0))
    ∧ (ready → count = 0 → run = .next ((u.withFence f fun _ =>
        { st := .active, cardBase := base.toNat, length := length.toNat, outstanding := none, setTag := none }).adminComplete
          0x18 tag .ok 0))
    ∧ (ready → 0 < count → (∀ i, look s.admin.deferred i ≠ none) → run = .next (u.adminComplete 0x18 tag .deferFull 0))
    ∧ (∀ i, ready → 0 < count → look s.admin.deferred i = none → (∀ j < i, look s.admin.deferred j ≠ none) →
        run = .next (((u.withFence f fun _ =>
          { st := .setting, cardBase := base.toNat, length := length.toNat, outstanding := some count, setTag := some tag }).withFences
            fun k => { k with records := k.records.map fun r => if hit r then { r with countedBy := f :: r.countedBy } else r }).setDeferred
              i (some { op := .fenceSet, tag, object := f.val, post := true, report := none })))

/-- R28: FENCE_CLEAR refuses a number outside 0-7 with BAD_PARAM, a locked list with LOCKED and an entry that is not ACTIVE with
STATE, and empties an ACTIVE entry, which from then on stops no access. FENCE_LOCK (R29) sets the lock and completes OK in every
state of the list. -/
def Obligations.FenceClearedAndLocked : Prop :=
  ∀ (s : State) (n : TNum) (tag : Tag) (x : BitVec 8), CommandReady s n →
    let u := s.taken n
    let run := exec (.fenceClear tag false x) s
    (8 ≤ x.toNat → run = .next (u.adminComplete 0x19 tag .badParam 0))
    ∧ (∀ f : FNum, x.toNat = f.val →
        (s.fences.locked = true → run = .next (u.adminComplete 0x19 tag .locked 0))
        ∧ (s.fences.locked = false → (s.fence f).st = .active →
            run = .next ((u.withFence f fun _ =>
              { st := .empty, cardBase := 0, length := 0, outstanding := none, setTag := none }).adminComplete 0x19 tag .ok 0)
            ∧ ∀ t i k base len write, run = .next t → t.presentAccess i k base len write ≠ .error f)
        ∧ (s.fences.locked = false → (s.fence f).st = .empty ∨ (s.fence f).st = .setting →
            run = .next (u.adminComplete 0x19 tag .state 0)))
    ∧ exec (.fenceLock tag false) s = .next ((u.withFences fun k => { k with locked := true }).adminComplete 0x1A tag .ok 0)

/-- R22: an access that overlaps an entry in force is refused with the lowest such number and changes nothing; any other is
issued to the controller and gets its access record, counted by no fence. -/
def Obligations.FenceCheck : Prop :=
  ∀ (s : State) (i : Fin 32) (k base len : Nat) (write : Option (List Byte)),
    let stops (f : FNum) : Prop := (s.fence f).st ≠ .empty ∧ base < (s.fence f).cardBase + (s.fence f).length
      ∧ (s.fence f).cardBase < base + len
    (∀ f, stops f → (∀ j < f, ¬stops j) → s.presentAccess i k base len write = .error f)
    ∧ ((∀ f, ¬stops f) → ∃ t, s.presentAccess i k base len write = .ok t
        ∧ t = { s with
          card := { s.card with
            ops := s.card.ops ++ [{ id := s.card.nextOp, owner := some (i, k), base, len, write, reached := [], seen := [] }]
            nextOp := s.card.nextOp + 1 }
          fences := { s.fences with
            records := s.fences.records ++ [{ id := s.card.nextOp, slot := i, chunk := k, base, len, countedBy := [] }] } })

/-! ### Pool, vector, event ring and link commands -/

/-- R115, R112, R117: POOL_SET is refused BAD_PARAM for parameters out of range, STATE outside QUIESCED, POOL_BUSY or LIMIT, in that
order; otherwise it replaces the share, grants buffers where the reserve is lowered, re-evaluates the watermark when shared free has
changed, and completes OK: here where no requester may take a buffer, and (R93, R81) where the one requester is a COPY_OUT whose last
chunk to start then issues its card read. What the re-evaluation is: R105, the shared free quantity; R117, R118, the watermark state
judged on it, with the event of a transition, whose count is that quantity; R119, nothing in HALTED. -/
def Obligations.PoolShareSet : Prop :=
  (∀ (s : State) (n : TNum) (tag : Tag) (q r l : BitVec 8), CommandReady s n →
    let u := s.taken n
    let run := exec (.poolSet tag false q r l) s
    let legal := q.toNat < 16 ∧ r.toNat ≤ 96 ∧ 1 ≤ l.toNat ∧ l.toNat ≤ 128 ∧ r.toNat ≤ l.toNat
    (¬legal → run = .next (u.adminComplete 0x20 tag .badParam 0)) ∧
    ∀ p : PNum, q.toNat = p.val → legal →
    let y := s.part p
    let others := total fun k : PNum => if k = p ∨ (s.part k).st = .closed then 0 else (s.part k).reserve
    let room := s.sharedFree + (y.reserve - y.held)
    let set := u.withPart p fun y => { y with reserve := r.toNat, limit := l.toNat }
    (y.st ≠ .quiesced → run = .next (u.adminComplete 0x20 tag .state 0))
    ∧ (y.st = .quiesced → room < r.toNat → run = .next (u.adminComplete 0x20 tag .poolBusy 0))
    ∧ (y.st = .quiesced → r.toNat ≤ room → 96 < others + r.toNat → run = .next (u.adminComplete 0x20 tag .limit 0))
    ∧ (y.st = .quiesced → r.toNat ≤ room → others + r.toNat ≤ 96 →
        y.reserve ≤ r.toNat ∨ (∀ i k, (i, k) ∈ s.pool.waiting → ¬MayTake set k) →
        run = .next ((set.reevaluate s.sharedFree).adminComplete 0x20 tag .ok 0))
    ∧ (∀ (i : Fin 32) (k : PNum) (b : BNum) (m : MemberCtx) (record : SubRecord) (range : CardRange),
        y.st = .quiesced → r.toNat ≤ room → others + r.toNat ≤ 96 → r.toNat < y.reserve → s.pool.waiting = [(i, k)] →
        MayTake set k → LowestFree s b → (s.slot i).st = .waitBuffer → (s.slot i).partition = k → (s.slot i).ctx = some m →
        (s.slot i).members[(s.slot i).current]? = some record → (s.slot i).chunks = [] → record.op = 2 → m.primary = some range →
        m.count = m.next + 1 →
        let base := range.base + 2048 * m.next
        let size := min 2048 (record.length.toNat - 2048 * m.next)
        FenceClear s base size →
        run = .next ((((((set.withBufferGranted b i k).withPool fun q => { q with waiting := [], pointer := k }).withSlot i fun x =>
          { x with
            st := .running
            ctx := some { m with next := m.next + 1 }
            chunks := [{ chunk := m.next, size, phase := .reading, buffer := some b, requests := 0, part := none, discard := false }]
          }).withAccess i m.next base size none).reevaluate s.sharedFree).adminComplete 0x20 tag .ok 0)))
  ∧ ∀ (s : State) (before : Nat),
    let f := s.sharedFree
    let at' (low : Bool) := s.withPool fun q => { q with low }
    let judged := if s.pool.low = true then (if s.pool.watermark ≤ f then (at' false).handOver (.poolRecovered f) else s)
      else if f < s.pool.watermark then (at' true).handOver (.poolLow f) else s
    f = s.pool.free - total (fun p : PNum => if (s.part p).st = .closed then 0 else (s.part p).reserve - (s.part p).held)
    ∧ s.evalWatermark = judged
    ∧ (s.device.st = .halted ∨ f = before → s.reevaluate before = s)
    ∧ (s.device.st ≠ .halted → f ≠ before → s.reevaluate before = judged)

/-- R116, R117, R118: POOL_WATERMARK refuses a value above 64 and otherwise replaces the watermark, re-evaluates the state against
it, hands over the event of a transition and then completes OK. -/
def Obligations.WatermarkSet : Prop :=
  ∀ (s : State) (n : TNum) (tag : Tag) (w : BitVec 8), CommandReady s n →
    let u := s.taken n
    let f := s.sharedFree
    let run := exec (.poolWatermark tag false w) s
    let at' (low : Bool) := u.withPool fun q => { q with watermark := w.toNat, low }
    (64 < w.toNat → run = .next (u.adminComplete 0x21 tag .badParam 0))
    ∧ (w.toNat ≤ 64 → s.pool.low = false → f < w.toNat →
        run = .next (((at' true).handOver (.poolLow f)).adminComplete 0x21 tag .ok 0))
    ∧ (w.toNat ≤ 64 → s.pool.low = false → w.toNat ≤ f → run = .next ((at' false).adminComplete 0x21 tag .ok 0))
    ∧ (w.toNat ≤ 64 → s.pool.low = true → w.toNat ≤ f →
        run = .next (((at' false).handOver (.poolRecovered f)).adminComplete 0x21 tag .ok 0))
    ∧ (w.toNat ≤ 64 → s.pool.low = true → f < w.toNat → run = .next ((at' true).adminComplete 0x21 tag .ok 0))

/-- R137: VECTOR_SET refuses parameters out of range with BAD_PARAM whether or not enable is set; otherwise (R138) the vector
takes them and stands QUIET with nothing counted, and the completion, which vector 16 then counts, follows. -/
def Obligations.VectorConfigured : Prop :=
  ∀ (s : State) (n : TNum) (tag : Tag) (x e t h : BitVec 8) (address : HostAddr) (data : BitVec 32), CommandReady s n →
    let u := s.taken n
    let run := exec (.vectorSet tag false x e t h address data) s
    let legal := x.toNat < 18 ∧ e.toNat ≤ 1 ∧ 1 ≤ t.toNat ∧ t.toNat ≤ 64 ∧ address.toNat % 4 = 0
    (¬legal → run = .next (u.adminComplete 0x28 tag .badParam 0))
    ∧ (∀ v : VNum, x.toNat = v.val → legal → run = .next ((u.withVector v fun _ =>
        { enable := decide (e = 1), threshold := t.toNat, holdoff := h.toNat, address, data, st := .quiet, u := 0,
          urgent := false, timer := none }).adminComplete 0x28 tag .ok 0))

/-- R156, R154: EVENT_RING_SET refuses a bad size or base; otherwise the ring starts afresh at entry 0 with marker 1, a pending lost
count is written into entry 0 of a configured ring and reported to vector 17, and the completion follows. R151: an event written is one
16-byte write (R200) to the entry at tail with the current marker; tail advances, the marker flips at 0, and vector 17 sees a record
that is urgent for PARTITION_FAULT and ADMIN_FAULT alone (R133). R149, R150, R153: an event handed over is so written where the ring is
configured and not full, and otherwise only lost rises by 1, up to 65535. That the entry's address is taken modulo 2^64 is the model's
choice (notes/assumptions/26.md). -/
def Obligations.EventRingConfigured : Prop :=
  (∀ (s : State) (n : TNum) (tag : Tag) (k : BitVec 16) (base : HostAddr), CommandReady s n →
    let u := s.taken n
    let run := exec (.eventRingSet tag false k base) s
    let legal := (k = 0 ∨ k.toNat ∈ [16, 32, 64, 128, 256, 512, 1024]) ∧ base.toNat % 4096 = 0 ∧ (k = 0 → base = 0)
    let afresh := u.withEvents fun r =>
      { configured := decide (k ≠ 0), base, size := k.toNat, tail := 0, head := 0, pass := true, lost := r.lost }
    (¬legal → run = .next (u.adminComplete 0x30 tag .badParam 0))
    ∧ (legal → k = 0 ∨ s.events.lost = 0 → run = .next (afresh.adminComplete 0x30 tag .ok 0))
    ∧ (legal → k ≠ 0 → 0 < s.events.lost → run = .next
        (((((u.postWrite { kind := .event, addr := base, bytes := (Event.eventsLost s.events.lost).bytes true }).withEvents fun _ =>
          { configured := true, base, size := k.toNat, tail := 1, head := 0, pass := true, lost := 0 }).newRecord
            eventVector false)).adminComplete 0x30 tag .ok 0)))
  ∧ ∀ (s : State) (e : Event),
    let r := s.events
    let next := (r.tail + 1) % r.size
    let urgent := match e with
      | .partitionFault _ _ | .adminFault _ => true
      | .transferError _ _ _ _ | .poolLow _ | .poolRecovered _ | .eventsLost _ => false
    let written := ((s.withLink fun l => { l with store := l.store ++
        [{ kind := .event, addr := r.base + BitVec.ofNat 64 (16 * r.tail), bytes := e.bytes r.pass }] }).withEvents fun r =>
      { r with tail := next, pass := if next = 0 then !r.pass else r.pass }).newRecord eventVector urgent
    s.writeEvent e = written
    ∧ s.handOver e = if r.configured = true ∧ 0 < r.size ∧ ((r.tail : Int) - r.head) % r.size + 1 < r.size then written
        else s.withEvents fun r => { r with lost := if r.lost < 65535 then r.lost + 1 else r.lost }

/-- R180: LINK_SET refuses 0, values above 255 and a non-zero reserved byte, and otherwise replaces the host read timeout and completes
OK; a request issued afterwards takes the new value, and tags already in use keep theirs. The resets return it to 32, and a stop
keeps it. -/
def Obligations.TimeoutReplaced : Prop :=
  (∀ (s : State) (n : TNum) (tag : Tag) (rsv : Bool) (k : BitVec 16), CommandReady s n →
    let u := s.taken n
    let run := exec (.linkSet tag rsv k) s
    (k = 0 ∨ 255 < k.toNat ∨ rsv = true → run = .next (u.adminComplete 0x38 tag .badParam 0))
    ∧ (1 ≤ k.toNat → k.toNat ≤ 255 → rsv = false →
        run = .next ((u.withLink fun l => { l with timeout := k.toNat }).adminComplete 0x38 tag .ok 0)
        ∧ (∀ t, run = .next t → t.link.timeout = k.toNat ∧ ∀ m ≠ n, t.tag m = s.tag m)
        ∧ ∀ q rest m, ((s.withLink fun l => { l with timeout := k.toNat }).issueRead q rest m).tag m =
            .busy q (List.replicate q.len none) (1000 * k.toNat) (1000 * k.toNat)))
  ∧ ∀ (s t : State) (k : BitVec 2) (enable : Bool),
    (∀ c ∈ [Instr.powerOnReset k, .busReset k], exec c s = .next t → t.link.timeout = 32)
    ∧ (s.device.st ≠ .init → ∀ c ∈ [Instr.functionReset enable, .pcieFunctionLevelReset], exec c s = .next t → t.link.timeout = 32)
    ∧ (exec .stop s = .next t → t.link.timeout = s.link.timeout)

/-! ### Groups and records -/

/-- R15, R16, R14: the five checks on a card operand of a member of `len` bytes of partition `p`, in their order, with the status and
detail of the first that fails; and the card range that an operand which passes them is translated to. R71, R68, R70, R78: the checks
of a member's start in their order: the four of its record's format, its operands, primary first, and for a MOVE the two ranges kept
apart; and what a member that passes takes with it. -/
def Obligations.OperandsChecked : Prop :=
  (∀ (s : State) (p : PNum) (len : Nat) (o : CardOperand),
    let result := s.checkOperand p len o
    (64 ≤ o.window → result = .error (.malformed, 7))
    ∧ ∀ w : WNum, o.window = w.val →
      let y := s.window w
      let usable := y.st = .opened ∨ y.st = .locked
      let inside := o.offset + len ≤ y.length
      let granted := if o.writes = true then y.access = .write ∨ y.access = .readWrite else y.access = .read ∨ y.access = .readWrite
      (¬usable → result = .error (.window, 1))
      ∧ (usable → y.owner ≠ some p → result = .error (.window, 2))
      ∧ (usable → y.owner = some p → ¬inside → result = .error (.window, 3))
      ∧ (usable → y.owner = some p → inside → ¬granted → result = .error (.window, 4))
      ∧ (usable → y.owner = some p → inside → granted → result = .ok (w, { base := y.cardBase + o.offset, len })))
  ∧ ∀ (s : State) (p : PNum) (r : SubRecord),
    let result := s.startCheck p r
    let op := r.op.toNat
    let n := r.length.toNat
    let noPrimary := r.primaryWindow = 0 ∧ r.primaryOffset = 0
    let noSecondary := r.secondaryWindow = 0 ∧ r.secondaryOffset = 0
    let zeros := r.reservedLow = 0 ∧ r.reservedHigh = 0
      ∧ (op = 0 → r.hostAddr = 0 ∧ noPrimary ∧ noSecondary ∧ r.pattern = 0)
      ∧ (op = 1 ∨ op = 2 → noSecondary ∧ r.pattern = 0)
      ∧ (op = 3 → r.hostAddr = 0 ∧ r.pattern = 0)
      ∧ (op = 4 → r.hostAddr = 0 ∧ noSecondary)
      ∧ (op = 5 → r.hostAddr = 0 ∧ noSecondary ∧ r.pattern.toNat < 2 ^ 32)
    let fits := if op = 0 then n = 0
      else 1 ≤ n ∧ n ≤ 16777216 ∧ (op = 1 ∨ op = 2 → r.hostAddr.toNat + n ≤ 2 ^ 64)
    let wellFormed := op < 6 ∧ r.flags.toNat < 8 ∧ zeros ∧ fits
    let first := s.checkOperand p n ⟨r.primaryWindow.toNat, r.primaryOffset.toNat, decide (op = 1 ∨ op = 3 ∨ op = 4)⟩
    let second := s.checkOperand p n ⟨r.secondaryWindow.toNat, r.secondaryOffset.toNat, false⟩
    (6 ≤ op → result = .error (.malformed, 1))
    ∧ (op < 6 → 8 ≤ r.flags.toNat → result = .error (.malformed, 2))
    ∧ (op < 6 → r.flags.toNat < 8 → ¬zeros → result = .error (.malformed, 3))
    ∧ (op < 6 → r.flags.toNat < 8 → zeros → ¬fits → result = .error (.malformed, 4))
    ∧ (wellFormed → op = 0 → result = .ok { op := .mark, primary := none, secondary := none, refs := [] })
    ∧ (∀ e, wellFormed → op ≠ 0 → first = .error e → result = .error e)
    ∧ (∀ w range (named : Op), wellFormed → op ≠ 0 → op ≠ 3 → first = .ok (w, range) → opOf r = some named →
        result = .ok { op := named, primary := some range, secondary := none, refs := [w] })
    ∧ (∀ w range e, wellFormed → op = 3 → first = .ok (w, range) → second = .error e → result = .error e)
    ∧ (∀ w range w2 range2, wellFormed → op = 3 → first = .ok (w, range) → second = .ok (w2, range2) →
        let meet := range.base < range2.base + range2.len ∧ range2.base < range.base + range.len
        (meet → result = .error (.malformed, 5))
        ∧ (¬meet → result = .ok { op := .move, primary := some range, secondary := some range2, refs := [w, w2] }))

/-- R97, R123, R47, R49: a group's completion is one 16-byte write to entry cq_tail with the current marker, counted and
unreserved, with the tail advanced and the vector told, urgent when notify_now is set; after a CQ_INDEX fault it is discarded,
counted as failed and unreserved. R197: the record's fields. That the entry's address is taken modulo 2^64 is the model's choice
(notes/assumptions/26.md). -/
def Obligations.GroupAnswered : Prop :=
  ∀ (s : State) (i : Fin 32) (v : Verdict),
    let x := s.slot i
    let p := x.partition
    let y := s.part p
    let posted := (s.withSlot i fun x => { x with
      st := .posting, verdict := some v, errorDue := decide (v.status ≠ .ok ∧ v.status ≠ .aborted)
      posted := decide (y.faultCause = some .cqIndex) }).withPart p fun y => { y with
        groupsOk := if v.status = .ok ∧ y.faultCause ≠ some .cqIndex ∧ y.groupsOk ≠ BitVec.allOnes 32 then y.groupsOk + 1 else y.groupsOk
        groupsFailed := if (v.status ≠ .ok ∨ y.faultCause = some .cqIndex) ∧ y.groupsFailed ≠ BitVec.allOnes 32
          then y.groupsFailed + 1 else y.groupsFailed
        bytesMoved := y.bytesMoved + BitVec.ofNat 64 x.bytesDone, cqReserved := y.cqReserved - 1 }
    let record := completionBytes ((x.members[0]?.map SubRecord.tag).getD 0) x.firstIndex x.members.length v x.bytesDone
      (x.digest.getD 0) y.cqPass
    let tail := (y.cqTail + 1) % y.cqSize
    (y.faultCause = some .cqIndex → s.postGroup i v = posted)
    ∧ (y.faultCause ≠ some .cqIndex → s.postGroup i v =
        (((posted.withLink fun l => { l with store := l.store ++
          [{ kind := .completion i, addr := y.cqBase + BitVec.ofNat 64 (16 * y.cqTail), bytes := record }] }).withPart p fun y =>
            { y with cqTail := tail, cqPass := if tail = 0 then !y.cqPass else y.cqPass }).newRecord (partVector p) x.notifyNow))
    ∧ record.length = 16 ∧ field record 0 2 = ((x.members[0]?.map SubRecord.tag).getD 0).toNat
    ∧ (x.firstIndex < 65536 → field record 2 2 = x.firstIndex)
    ∧ field record 4 1 = (match v.status with
        | .ok => 0 | .window => 1 | .fenced => 2 | .hostRead => 3 | .cardEcc => 4 | .malformed => 5 | .aborted => 6)
    ∧ (v.detail < 256 → field record 5 1 = v.detail) ∧ (v.failedMember < 16 → field record 6 1 = v.failedMember)
    ∧ (x.members.length ≤ 16 → field record 7 1 = x.members.length + if y.cqPass = true then 128 else 0)
    ∧ (x.bytesDone < 2 ^ 32 → field record 8 4 = x.bytesDone) ∧ field record 12 4 = (x.digest.getD 0).toNat

/-- R57, R58, R56, R55: a choice serves the first eligible partition after the pointer with the lowest FREE slot: the slot is
ASSEMBLING with no member, slots_held and cq_reserved rise, the pointer moves, and the record at sq_head is asked for. That the record's
address is taken modulo 2^64 is the model's choice (notes/assumptions/26.md). -/
def Obligations.PartitionServed : Prop :=
  ∀ (s : State) (k : Nat) (p : PNum) (i : Fin 32), s.device.st = .running → TablesGood s → k < 16 →
    p.val = (s.sched.pointer.val + 1 + k) % 16 → Eligible s p →
    (∀ j < k, ∀ q : PNum, q.val = (s.sched.pointer.val + 1 + j) % 16 → ¬Eligible s q) →
    (s.slot i).st = .free → (∀ j < i, (s.slot j).st ≠ .free) → ((s.part p).sqBase.toNat + 64 * (s.part p).sqHead) % 64 = 0 →
    exec .servePartition s = .next
      (((((s.withSlot i fun _ => { Slot.free with st := .assembling, partition := p, firstIndex := (s.part p).sqHead }).withPart p
        fun y => { y with slotsHeld := y.slotsHeld + 1, cqReserved := y.cqReserved + 1 }).withSched fun c => { c with pointer := p }).withAssembling
          p (some { slot := i, membersRead := 0, readOutstanding := true })).withLink fun l => { l with queue := l.queue ++
            [{ requester := .record i, addr := (s.part p).sqBase + BitVec.ofNat 64 (64 * (s.part p).sqHead), len := 64, place := 0 }] })

/-- R177, R179: in RUNNING and STOPPING the request at the front of the queue takes the lowest FREE tag and goes out with its timer
at the timeout in force; with no FREE tag the queue waits. -/
def Obligations.ReadRequestIssued : Prop :=
  ∀ (s : State) (q : ReadRequest) (rest : List ReadRequest),
    (s.device.st = .running ∨ s.device.st = .stopping) → s.link.queue = q :: rest →
    (∀ n, (s.tag n) = .free → (∀ m < n, s.tag m ≠ .free) → exec .hostReadRequestIssue s = .next
      ((s.withTag n fun _ => .busy q (List.replicate q.len none) (1000 * s.link.timeout) (1000 * s.link.timeout)).withLink fun l =>
        { l with queue := rest, out := some (.read n q.addr q.len) }))
    ∧ ((∀ n, s.tag n ≠ .free) → exec .hostReadRequestIssue s = .next s)

/-- R178, R83: a part is placed at its offset and the tag stays BUSY until every byte has arrived (what bytes beyond the request and
bytes that arrive twice do is the model's choice, notes/assumptions/18.md); a part for a FREE or QUARANTINED tag is discarded; with the
last byte of a COPY_IN request the tag is freed, the bytes lie at their place in the buffer and the chunk waits for one request less,
and after its last request (until which R80 has it READING), while a lower chunk of its member still reads, it is HELD; (R82, R83) in
its turn it issues its card write from the buffer, at its place in the member's translated range; (R22, R91, R97) where a fence stops
that write, here with the chunk the last of its group, the buffer is given back and the group is answered FENCED with the fence's number,
the pool's event, if any, last (the model's choice, notes/assumptions/28.md). R164: with the last byte of the command read the
command that its 64 bytes spell is executed, as its own row executes it (notes/assumptions/7.md). -/
def Obligations.PartReturned : Prop :=
  ∀ (s : State) (n : TNum) (offset : Nat) (data : List Byte),
    (∀ (q : ReadRequest) (got : List (Option Byte)) (left limit : Nat), s.device.st ≠ .halted → s.tag n = .busy q got left limit →
      (∃ j : Nat, (placeBytes got offset data)[j]? = some none) →
      exec (.hostReadPartReturn n offset data) s = .next
        (s.withTag n fun _ => .busy q (placeBytes got offset data) left limit))
    ∧ ((s.tag n).isBusy = false → exec (.hostReadPartReturn n offset data) s = .next s)
    ∧ (∀ (addr : HostAddr) (len place left limit : Nat) (i : Fin 32) (k : Nat) (c : ChunkCtx) (b : BNum) (m : Nat),
        s.device.st = .running ∨ s.device.st = .stopping → TablesGood s → (s.part (s.slot i).partition).st ≠ .closed →
        s.tag n = .busy { requester := .copyIn i k, addr, len, place } (List.replicate len none) left limit →
        data.length = len → (s.slot i).chunk k = some c → c.discard = false → c.buffer = some b → c.requests = m + 1 →
        let filled := (s.withTag n fun _ => .free).withBuffer b fun x =>
          { x with data := x.data.take place ++ data ++ x.data.drop (place + len) }
        (0 < m → exec (.hostReadPartReturn n 0 data) s = .next (filled.withSlot i fun x =>
          { x with chunks := x.chunks.map fun c => if c.chunk = k then { c with requests := m } else c }))
        ∧ (∀ d, m = 0 → c.phase = .reading → (s.slot i).chunks.find? (fun c => decide (c.phase ≠ .writing)) = some d →
            d.phase = .reading → d.chunk < k →
            exec (.hostReadPartReturn n 0 data) s = .next (filled.withSlot i fun x =>
              { x with chunks := x.chunks.map fun c => if c.chunk = k then { c with requests := 0, phase := .held } else c }))
        ∧ (∀ (r : SubRecord) (ctx : MemberCtx) (range : CardRange), m = 0 → r.op = 1 → ctx.primary = some range →
            (MemberRuns s i r ctx → TurnOf s i c → FenceClear s (range.base + 2048 * k) c.size →
              exec (.hostReadPartReturn n 0 data) s = .next ((filled.withSlot i fun x =>
                { x with chunks := x.chunks.map fun c => if c.chunk = k then { c with requests := 0, phase := .writing } else c }).withAccess
                  i k (range.base + 2048 * k) c.size (some ((filled.buffer b).data.take c.size))))
            ∧ (∀ f, LastChunk s i r ctx c → c.phase = .reading → s.pool.waiting = [] → (∀ q ∈ s.link.queue, ∀ k, q.requester ≠ .copyIn i k) →
                i ∉ s.link.placeWaiters → FenceStops s (range.base + 2048 * k) c.size f →
                exec (.hostReadPartReturn n 0 data) s = .next (((filled.withBufferBack b (s.slot i).partition).withGroupAnswered i ctx.refs id
                  { status := .fenced, detail := f.val, failedMember := (s.slot i).current }).reevaluate s.sharedFree))))
    ∧ (∀ (addr : HostAddr) (left limit : Nat), s.device.st ≠ .halted → s.adminTag = some n →
        s.tag n = .busy { requester := .admin, addr, len := 64, place := 0 } (List.replicate 64 none) left limit → data.length = 64 →
        exec (.hostReadPartReturn n 0 data) s = exec (decodeCommand data) s)

/-- R60, R54, R61: a record that returns with CONT set joins its slot's list, sq_head advances, and the slot reads on when a record is
available and otherwise waits for a member. R65: a group whose last record has returned waits in WAIT_ORDER when it is a barrier group
and another slot of its partition is occupied. R77, R79, R15, R81: a group of one record with CONT and BARRIER clear runs at once; its
member, having passed its start, takes its references and context and starts its chunk, here the member's only one: (R86, R87) a FILL
issues its card write, a DIGEST its card read; (R83) a COPY_IN is granted the lowest free buffer and asks for its host bytes; (R84,
R85) a COPY_OUT and a MOVE issue their card read into their buffer; (R93) with no buffer to be had the slot waits in WAIT_BUFFER.
Members of more than one chunk are not stated here. That the next record's address is taken modulo 2^64 is the model's choice
(notes/assumptions/26.md). -/
def Obligations.RecordReturned : Prop :=
  ∀ (s : State) (n : TNum) (data : List Byte) (addr : HostAddr) (left limit : Nat) (i : Fin 32) (a : Assembling),
    let x := s.slot i
    let p := x.partition
    let y := s.part p
    let r := SubRecord.decode data
    let head := (y.sqHead + 1) % y.sqSize
    let run := exec (.hostReadPartReturn n 0 data) s
    s.device.st = .running → TablesGood s → data.length = 64 →
    s.tag n = .busy { requester := .record i, addr, len := 64, place := 0 } (List.replicate 64 none) left limit →
    x.st = .assembling → s.assembling p = some a → a.slot = i → a.readOutstanding = true →
    let joined := ((s.withTag n fun _ => .free).withSlot i fun x => { x with
      members := x.members ++ [r], barrier := if x.members.isEmpty then r.barrierFlag else x.barrier
      notifyNow := x.notifyNow || r.notifyNowFlag }).withPart p fun y => { y with sqHead := head }
    (r.cont = true → a.membersRead + 1 < 16 →
      (y.sqTail = head → run = .next
        (joined.withAssembling p (some { slot := i, membersRead := a.membersRead + 1, readOutstanding := false })))
      ∧ (y.sqTail ≠ head → (y.sqBase.toNat + 64 * head) % 64 = 0 → run = .next
          ((joined.withAssembling p (some { slot := i, membersRead := a.membersRead + 1, readOutstanding := true })).withLink fun l =>
            { l with queue := l.queue ++
              [{ requester := .record i, addr := y.sqBase + BitVec.ofNat 64 (64 * head), len := 64, place := 0 }] })))
    ∧ (r.cont = false → (if x.members = [] then r.barrierFlag = true else x.barrier = true) →
        (∃ j ≠ i, (s.slot j).st ≠ .free ∧ (s.slot j).partition = p) →
        run = .next ((joined.withAssembling p none).withSlot i fun x => { x with st := .waitOrder }))
    ∧ (∀ t, r.cont = false → r.barrierFlag = false → x = { Slot.free with st := .assembling, partition := p, firstIndex := x.firstIndex } →
        s.startCheck p r = .ok t → 1 ≤ r.length.toNat → r.length.toNat ≤ 2048 →
        let ctx (next : Nat) : MemberCtx :=
          { primary := t.primary, secondary := t.secondary, refs := t.refs, count := 1, next, doneChunks := 0, doneAhead := [],
            crc := r.pattern.setWidth 32 }
        let taken := { joined with windows := mapTab (fun w (y : Window) => { y with refs := y.refs + t.refs.count w }) joined.windows }.withAssembling p none
        let started (u : State) (phase : Phase) (buffer : Option BNum) (requests : Nat) : State := u.withSlot i fun x =>
          { x with st := .running, ctx := some (ctx 1)
                   chunks := [{ chunk := 0, size := r.length.toNat, phase, buffer, requests, part := none, discard := false }] }
        let issued (u : State) (base : Nat) (write : Option (List Byte)) : State := { u with
          card := { u.card with
            ops := u.card.ops ++ [{ id := u.card.nextOp, owner := some (i, 0), base, len := r.length.toNat, write, reached := [], seen := [] }]
            nextOp := u.card.nextOp + 1 }
          fences := { u.fences with
            records := u.fences.records ++ [{ id := u.card.nextOp, slot := i, chunk := 0, base, len := r.length.toNat, countedBy := [] }] } }
        let granted (u : State) (b : BNum) : State := ((u.withBuffer b fun x => { x with owner := some i }).withPool fun q =>
          { q with free := q.free - 1 }).withPart p fun y => { y with held := y.held + 1 }
        let clear (base : Nat) : Prop := ∀ f, (s.fence f).st = .empty ∨ (s.fence f).cardBase + (s.fence f).length ≤ base
          ∨ base + r.length.toNat ≤ (s.fence f).cardBase
        let may := y.st ≠ .closed ∧ (y.held < y.reserve ∨ (y.held < y.limit ∧ 0 < s.sharedFree))
        (∀ range, t.op = .fill → t.primary = some range → clear range.base → run = .next
          (started (issued taken range.base
            (some ((List.range r.length.toNat).map fun j => (r.pattern >>> (8 * (j % 8))).setWidth 8))) .writing none 0))
        ∧ (∀ range, t.op = .digest → t.primary = some range → clear range.base → run = .next
            (started (issued taken range.base none) .reading none 0))
        ∧ (∀ b, may → (s.buffer b).owner = none → (∀ j < b, (s.buffer j).owner ≠ none) →
            (t.op = .copyIn →
              let asked := readRequests (.copyIn i 0) r.hostAddr r.length.toNat
              run = .next ((started ((granted taken b).withLink fun l => { l with queue := l.queue ++ asked }) .reading (some b)
                asked.length).reevaluate s.sharedFree))
            ∧ (∀ range, (t.op = .copyOut ∧ t.primary = some range) ∨ (t.op = .move ∧ t.secondary = some range) → clear range.base →
                run = .next ((started (issued (granted taken b) range.base none) .reading (some b) 0).reevaluate s.sharedFree)))
        ∧ (¬may → t.op = .copyIn ∨ t.op = .copyOut ∨ t.op = .move →
            run = .next (((taken.withSlot i fun x => { x with st := .waitBuffer, ctx := some (ctx 0) }).withPool fun q =>
              { q with waiting := q.waiting ++ [(i, p)] }).withPart p fun y =>
                { y with bufferWaits := if y.bufferWaits = BitVec.allOnes 32 then y.bufferWaits else y.bufferWaits + 1 })))

/-- R60, R65, R77, R90, R96: a single record that returns with CONT and BARRIER clear and names a MARK that passes its checks makes a
group that runs at once and is answered OK in the same step, and the record's tag, slot, ring head and assembling record say so. R78,
R91, R97: one whose start fails is answered in that step with the failure of the check; (R86, R87, R22) so is a FILL or a DIGEST whose
first card access a fence stops, with its references released. R62: a group whose sixteenth record carries CONT is answered
MALFORMED, detail 6, member 15, in that step. -/
def Obligations.MarkGroupAnswered : Prop :=
  ∀ (s : State) (n : TNum) (data : List Byte) (addr : HostAddr) (left limit : Nat) (i : Fin 32) (a : Assembling) (r : SubRecord),
    let x := s.slot i
    let p := x.partition
    let run := exec (.hostReadPartReturn n 0 data) s
    s.device.st = .running → TablesGood s → data.length = 64 → SubRecord.decode data = r →
    s.tag n = .busy { requester := .record i, addr, len := 64, place := 0 } (List.replicate 64 none) left limit →
    s.assembling p = some a → a.slot = i → a.readOutstanding = true → (s.part p).faultCause = none →
    let joined := ((((s.withTag n fun _ => .free).withSlot i fun x => { x with
      members := x.members ++ [r], barrier := if x.members.isEmpty then r.barrierFlag else x.barrier
      notifyNow := x.notifyNow || r.notifyNowFlag }).withPart p fun y => { y with sqHead := (y.sqHead + 1) % y.sqSize })).withAssembling p none
    let answered (status : Status) (detail : Nat) : State := (joined.withSlot i fun x => { x with st := .running }).postGroup i
      { status, detail, failedMember := 0 }
    (x = { Slot.free with st := .assembling, partition := p, firstIndex := x.firstIndex } → r.cont = false → r.barrierFlag = false →
      (r.op = 0 → r.flags = 0 ∨ r.flags = 4 → r.length = 0 → r.hostAddr = 0 → r.primaryWindow = 0 → r.secondaryWindow = 0 →
        r.reservedLow = 0 → r.primaryOffset = 0 → r.secondaryOffset = 0 → r.pattern = 0 → r.reservedHigh = 0 →
        run = .next (answered .ok 0))
      ∧ ((∀ q ∈ s.link.queue, ∀ k, q.requester ≠ .copyIn i k) → i ∉ s.link.placeWaiters →
          (∀ status detail, s.startCheck p r = .error (status, detail) → run = .next (answered status detail))
          ∧ ∀ (t : Translated) (range : CardRange) (f : FNum), s.startCheck p r = .ok t → t.op = .fill ∨ t.op = .digest →
              t.primary = some range →
              let stops (f : FNum) : Prop := (s.fence f).st ≠ .empty ∧ (s.fence f).cardBase < range.base + min 2048 r.length.toNat
                ∧ range.base < (s.fence f).cardBase + (s.fence f).length
              stops f → (∀ j < f, ¬stops j) → run = .next (answered .fenced f.val)))
    ∧ (x.st = .assembling → r.cont = true → a.membersRead = 15 →
        run = .next (joined.postGroup i { status := .malformed, detail := 6, failedMember := 15 }))

/-- R178, R179, R171, R63, R45, R64: an error response frees the tag and a timeout quarantines it for the timeout of its issue; a
command read that so fails in a NORMAL channel faults it FETCH_ERROR, a record read that so fails faults its OPEN partition FETCH_ERROR
with sq_head kept, and a read whose requester is gone is dropped. A quarantine's expiry frees its
tag. Each expiry lets what was left of its time pass (the model's choice, notes/assumptions/1.md). -/
def Obligations.ReadsFail : Prop :=
  ∀ (s : State) (n : TNum),
    let fetchFault (t : State) := (State.handOver { t with admin := faultedChannel t.admin .fetchError }
      (.adminFault .fetchError)).withAdmin fun a => { a with readOutstanding := false }
    s.device.st = .running →
    (∀ q got left limit, s.tag n = .busy q got left limit → q.requester = .admin → s.admin.faulted = false →
      s.admin.readOutstanding = true →
      exec (.hostReadErrorResponse n) s = .next (fetchFault (s.withTag n fun _ => .free))
      ∧ exec (.hostReadTimeout n) s = .next (fetchFault ((s.elapse left).withTag n fun _ => .quarantined limit)))
    ∧ (∀ q got left limit i a, s.tag n = .busy q got left limit → q.requester = .record i → TablesGood s → (s.slot i).st = .assembling →
      let p := (s.slot i).partition
      s.assembling p = some a → a.slot = i → a.readOutstanding = true → (s.part p).st = .opened →
      (∀ j, (s.slot j).partition = p → (s.slot j).st ≠ .waitOrder) →
      let faulted (t : State) : Prop := (t.part p).st = .faulted ∧ (t.part p).faultCause = some .fetchError
        ∧ (t.part p).sqHead = (s.part p).sqHead
      (∃ t, exec (.hostReadErrorResponse n) s = .next t ∧ faulted t ∧ t.tag n = .free)
      ∧ (∃ t, exec (.hostReadTimeout n) s = .next t ∧ faulted t ∧ t.tag n = .quarantined limit))
    ∧ (∀ q got left limit, s.tag n = .busy q got left limit → q.requester = .orphan →
        exec (.hostReadErrorResponse n) s = .next (s.withTag n fun _ => .free)
        ∧ exec (.hostReadTimeout n) s = .next ((s.elapse left).withTag n fun _ => .quarantined limit))
    ∧ (∀ left, s.tag n = .quarantined left →
        exec (.tagQuarantineExpiry n) s = .next ((s.elapse left).withTag n fun _ => .free))

/-! ### Card accesses -/

/-- R2, R3, R82, R21, R27: a card read that ends with data from words with no mark passes the bytes of memory to its chunk, which is
HELD; the access is gone, its access record is removed, and each SETTING fence that counted it counts one less. A fence it was the last
access of becomes ACTIVE, its deferred table entry is freed, and its FENCE_SET completes OK. While a lower chunk of its member still
reads, no more happens. In its turn (R85) a MOVE chunk issues its card write from the buffer, at its place in the member's translated
range, and where a fence stops that write (R22, R91), here with the chunk the last of its group, the buffer is given back and the group
is answered FENCED; (R84, R181) a COPY_OUT chunk hands its buffer's bytes over as a posted write to its host address, or waits for a data
place; (R87, R99) a DIGEST chunk enters its bytes into the member's CRC register. A handed over or entered chunk ends (R88, R89): its
buffer is given back, its context is freed and its bytes count as done. Then (R81, R107), where the member's list of contexts or its last
chunk or the pool lets no second one follow, the member's next chunk starts, a COPY_OUT one with the lowest free buffer, and issues its
card read; or all have started and the others go on; or (R90, R97) the member ends with its digest, and it is its group's last, which is
answered OK, or (R77, R78) the next member starts, here one that fails its start or is a last MARK, and so answers the group. The pool's
event, if any, is handed over last (the model's choice, notes/assumptions/28.md). -/
def Obligations.CardReadReturned : Prop :=
  ∀ (s : State) (o : CardOp) (i : Fin 32) (k : Nat) (c : ChunkCtx) (a : AccessRecord),
    s.device.st = .running ∨ (s.device.st = .stopping ∧ s.link.store ≠ []) → TablesGood s → s.card.scrub = none →
    s.card.find o.id = some o → (∀ o' ∈ s.card.ops, o'.id = o.id → o' = o) → (∀ o' ∈ s.card.ops, o'.write = none) →
    o.owner = some (i, k) → o.seen = [] → o.base + o.len ≤ 2 ^ 32 →
    (∀ w ∈ s.card.marks, ∀ a, o.base ≤ a → a < o.base + o.len → a / 8 ≠ w) →
    s.fences.records.find? (fun a => decide (a.id = o.id)) = some a → a.countedBy.Nodup →
    (s.slot i).chunk k = some c → c.phase = .reading → c.discard = false →
    let run := exec (.cardReadDataReturn o.id) s
    let p := (s.slot i).partition
    let bytes := (List.range o.len).map fun j => readByte s.card.mem (o.base + j)
    let gone := { s with
      card := { s.card with ops := s.card.ops.filter fun o' => decide (o'.id ≠ o.id) }
      fences := { s.fences with records := s.fences.records.filter fun a => decide (a.id ≠ o.id) } }
    let counted := gone.withFences fun u => { u with entries := mapTab (fun f y =>
      if f ∈ a.countedBy ∧ y.st = .setting then { y with outstanding := y.outstanding.map (· - 1) } else y) u.entries }
    let load (u : State) (b : BNum) : State := u.withBuffer b fun x => { x with data := bytes ++ x.data.drop o.len }
    let goes (u : State) (phase : Phase) : State := u.withSlot i fun x =>
      { x with chunks := x.chunks.map fun c => if c.chunk = k then { c with phase, part := none } else c }
    let others : Prop := ∀ f ∈ a.countedBy, (s.fence f).st = .setting → ∃ n, (s.fence f).outstanding = some (n + 2)
    (∀ (d : ChunkCtx) (b : BNum), c.buffer = some b → (s.slot i).chunks.find? (fun c => decide (c.phase ≠ .writing)) = some d →
      d.phase = .reading → d.chunk < k →
      (others → run = .next (goes (load counted b) .held))
      ∧ ∀ (f : FNum) (j : Fin 8) (e : Deferred), a.countedBy = [f] → (s.fence f).st = .setting → (s.fence f).outstanding = some 1 →
        (s.fence f).setTag ≠ none → s.deferredAt .fenceSet f.val = some j → look s.admin.deferred j = some e → e.post = true →
        run = .next (goes (load (((gone.withFence f fun y => { y with st := .active, outstanding := none, setTag := none }).setDeferred j
          none).adminComplete 0x18 e.tag .ok 0) b) .held))
    ∧ ∀ (r : SubRecord) (m : MemberCtx), others → c.size = o.len →
      let done (x : Slot) : Slot := { x with bytesDone := x.bytesDone + min 2048 (r.length.toNat - 2048 * k) }
      let ok : Verdict := { status := .ok, detail := 0, failedMember := 0 }
      let rest := (s.slot i).chunks.filter fun d => decide (d.chunk ≠ k)
      let size := min 2048 (r.length.toNat - 2048 * m.next)
      let fresh (buffer : Option BNum) : List ChunkCtx :=
        [{ chunk := m.next, size, phase := .reading, buffer, requests := 0, part := none, discard := false }]
      let goesOn (u : State) (next : Nat) (crc : BitVec 32) (more : List ChunkCtx) : State := u.withSlot i fun x =>
        { done x with ctx := some { m with next, crc, doneChunks := k + 1, doneAhead := [] }, chunks := rest ++ more }
      let noneStarts : Prop := rest ≠ [] ∧ (m.count ≤ m.next ∨ 4 ≤ rest.length)
      let oneStarts (base : Nat) : Prop := m.next < m.count ∧ rest.length < 4 ∧ FenceClear s base size
      let memberEnds : Prop := rest = [] ∧ m.count ≤ m.next ∧ (s.part p).faultCause ≠ some .cqIndex
        ∧ (∀ w ∈ m.refs, (s.window w).st ≠ .retiring ∨ m.refs.count w < (s.window w).refs)
        ∧ ∀ q ∈ s.link.queue, ∀ k, q.requester ≠ .copyIn i k
      (∀ (b : BNum) (range : CardRange), r.op = 3 → c.buffer = some b → m.primary = some range →
        let base := range.base + 2048 * k
        (MemberRuns s i r m → TurnOf s i c → FenceClear s base o.len →
          run = .next ((goes (load counted b) .writing).withAccess i k base o.len (some bytes)))
        ∧ ∀ f, LastChunk s i r m c → s.pool.waiting = [] → (∀ q ∈ s.link.queue, ∀ k, q.requester ≠ .copyIn i k) →
          i ∉ s.link.placeWaiters → FenceStops s base o.len f →
          run = .next ((((load counted b).withBufferBack b p).withGroupAnswered i m.refs id
            { status := .fenced, detail := f.val, failedMember := (s.slot i).current }).reevaluate s.sharedFree))
      ∧ (∀ b : BNum, r.op = 2 → c.buffer = some b → i ∉ s.link.placeWaiters →
        let places := (s.link.store.filter fun w => decide (w.kind = .data)).length
        let handed := ((load counted b).withLink fun l => { l with store := l.store ++
          [{ kind := .data, addr := r.hostAddr + BitVec.ofNat 64 (2048 * k), bytes }] }).withBufferBack b p
        (MemberRuns s i r m → TurnOf s i c → 64 ≤ places →
          run = .next ((goes (load counted b) .held).withLink fun l => { l with placeWaiters := l.placeWaiters ++ [i] }))
        ∧ (LastChunk s i r m c → s.pool.waiting = [] → places < 64 →
          run = .next ((handed.withGroupAnswered i m.refs done ok).reevaluate s.sharedFree))
        ∧ (TurnInOrder s i r m c → s.pool.waiting = [] → places < 64 →
          (noneStarts → run = .next ((goesOn handed m.next m.crc []).reevaluate s.sharedFree))
          ∧ (∀ (b' : BNum) (range : CardRange), m.primary = some range → oneStarts (range.base + 2048 * m.next) →
              MayTake handed p → LowestFree handed b' →
              rest.length = 3 ∨ m.count = m.next + 1 ∨ ¬MayTake (handed.withBufferGranted b' i p) p →
              run = .next (((goesOn (handed.withBufferGranted b' i p) (m.next + 1) m.crc (fresh (some b'))).withAccess i m.next
                (range.base + 2048 * m.next) size none).reevaluate s.sharedFree))
          ∧ ∀ r' v, memberEnds → NextAnswers s i r' v →
              run = .next ((handed.withGroupAnswered i m.refs (fun x => { done x with current := x.current + 1 }) v).reevaluate s.sharedFree)))
      ∧ (r.op = 5 → c.buffer = none →
        let crc := crcBytes m.crc bytes
        let digested (x : Slot) : Slot := { done x with digest := some (crcFinal crc) }
        (LastChunk s i r m c → run = .next (counted.withGroupAnswered i m.refs digested ok))
        ∧ (TurnInOrder s i r m c →
          (noneStarts → run = .next (goesOn counted m.next crc []))
          ∧ (∀ range : CardRange, m.primary = some range → oneStarts (range.base + 2048 * m.next) →
              rest.length = 3 ∨ m.count = m.next + 1 →
              run = .next ((goesOn counted (m.next + 1) crc (fresh none)).withAccess i m.next (range.base + 2048 * m.next) size none))
          ∧ ∀ r' v, memberEnds → i ∉ s.link.placeWaiters → NextAnswers s i r' v →
              run = .next (counted.withGroupAnswered i m.refs (fun x => { digested x with current := x.current + 1 }) v)))

/-- R3, R178, R179, R91, R97: a card read that ends with an ECC error, and a COPY_IN request that fails, in a slot whose member has
neither failed nor been aborted, fix the group's outcome as CARD_ECC with detail 0 or HOST_READ with detail 1 (error response) or 2
(timeout) and the current member, and the slot drains or posts. No requester waits for a buffer, and the slot holds at most the four
chunk contexts of R80. -/
def Obligations.MembersFail : Prop :=
  ∀ (s : State) (i : Fin 32) (k : Nat) (c : ChunkCtx), s.device.st = .running → TablesGood s → (s.slot i).st = .running →
    (s.slot i).verdict = none → (s.slot i).abort = none → (s.slot i).chunk k = some c → c.discard = false →
    s.pool.waiting = [] → (s.slot i).chunks.length ≤ 4 →
    let failed (t : State) (status : Status) (detail : Nat) : Prop :=
      (t.slot i).verdict = some { status, detail, failedMember := (s.slot i).current }
      ∧ ((t.slot i).st = .draining ∨ (t.slot i).st = .posting) ∧ t.card.mem = s.card.mem ∧ t.card.marks = s.card.marks
    (∀ o, s.card.find o.id = some o → o.write = none → o.owner = some (i, k) →
      ∃ t, exec (.cardReadEccError o.id) s = .next t ∧ failed t .cardEcc 0)
    ∧ (∀ (n : TNum) (q : ReadRequest) (got : List (Option Byte)) (left limit : Nat), s.tag n = .busy q got left limit →
      q.requester = .copyIn i k →
      (∃ t, exec (.hostReadErrorResponse n) s = .next t ∧ failed t .hostRead 1 ∧ t.tag n = .free)
      ∧ (∃ t, exec (.hostReadTimeout n) s = .next t ∧ failed t .hostRead 2 ∧ t.tag n = .quarantined limit))

/-- R2, R4: an acknowledged write, outside a scrub, with no other access on its words, has stored its bytes: every byte of its range
reads as written and every other byte as before; the marks of the words it covers whole are gone; and its first or last word, where it
covers that word only in part and the merge read finds an error there, is marked. No other mark changes. -/
def Obligations.CardWriteStores : Prop :=
  ∀ (s : State) (o : CardOp) (data : List Byte), MemoryInForm s → s.card.scrub = none → s.card.find o.id = some o →
    (∀ o' ∈ s.card.ops, o'.id = o.id → o' = o) → (∀ o' ∈ s.card.ops, o'.id ≠ o.id → ∀ w, o.touches w = true → o'.touches w = false) →
    o.write = some data → data.length = o.len → o.reached = [] → o.base + o.len ≤ 2 ^ 32 →
    ∀ badFirst badLast : Bool,
    let covered (w : Nat) : Prop := o.base ≤ 8 * w ∧ 8 * w + 8 ≤ o.base + o.len
    let failed (w : Nat) : Prop := 0 < o.len ∧ ¬covered w
      ∧ (badFirst = true ∧ w = o.base / 8 ∨ badLast = true ∧ w = (o.base + o.len - 1) / 8)
    ∃ t, exec (.cardWriteAcknowledge o.id badFirst badLast) s = .next t
      ∧ (∀ a, readByte t.card.mem a =
          if o.base ≤ a ∧ a < o.base + o.len then (data[a - o.base]?).getD 0 else readByte s.card.mem a)
      ∧ (∀ w, w ∈ t.card.marks ↔ (w ∈ s.card.marks ∧ ¬covered w) ∨ failed w)
      ∧ (∀ o' ∈ t.card.ops, o'.id ≠ o.id ∨ s.card.nextOp ≤ o'.id)

/-- R86, R88, R89, R90, R17, R96, R27: the acknowledge of the write of the one chunk of a FILL that is its group's last member ends the
chunk, the member and the group in its step: the access and its record are gone, each SETTING fence that counted it counts one less,
the member's bytes count as done, its window loses the reference, and the group is answered OK. R18: a RETIRING window whose last
reference this was is FREE, and the WINDOW_CLOSE that waits for it completes OK before the group is answered. -/
def Obligations.FillMemberEnds : Prop :=
  ∀ (s : State) (o : CardOp) (data : List Byte) (i : Fin 32) (c : ChunkCtx) (m : MemberCtx) (r : SubRecord) (w : WNum) (a : AccessRecord),
    s.device.st = .running → TablesGood s → s.card.find o.id = some o → o.write = some data → o.base + o.len ≤ 2 ^ 32 →
    o.owner = some (i, 0) → s.fences.records.find? (fun a => decide (a.id = o.id)) = some a → a.countedBy.Nodup →
    (∀ f ∈ a.countedBy, (s.fence f).st = .setting → ∃ m, (s.fence f).outstanding = some (m + 2)) →
    (s.slot i).st = .running → (s.slot i).verdict = none → (s.slot i).abort = none → (s.slot i).ctx = some m →
    m.count = 1 → m.next = 1 → m.doneChunks = 0 → m.doneAhead = [] → m.refs = [w] →
    (s.slot i).members.length = (s.slot i).current + 1 → (s.slot i).members[(s.slot i).current]? = some r → r.op = 4 →
    r.length.toNat ≤ 2048 → (s.slot i).chunks = [c] → c.chunk = 0 → c.buffer = none →
    (s.part (s.slot i).partition).faultCause = none →
    let y := s.window w
    let gone := s.withFences fun u => { u with
      records := u.records.filter fun a => decide (a.id ≠ o.id)
      entries := mapTab (fun f y =>
        if f ∈ a.countedBy ∧ y.st = .setting then { y with outstanding := y.outstanding.map (· - 1) } else y) u.entries }
    let freed := gone.withWindow w fun y => { y with st := .free, owner := none, refs := 0, closeTag := none }
    let ends (u : State) : Prop := ∃ t, exec (.cardWriteAcknowledge o.id false false) s = .next t
      ∧ (∀ o' ∈ t.card.ops, o'.id ≠ o.id)
      ∧ t = { (u.withSlot i fun x => { x with
          ctx := none, chunks := [], bytesDone := x.bytesDone + r.length.toNat }).postGroup i
            { status := .ok, detail := 0, failedMember := 0 } with card := t.card, draws := t.draws }
    (y.st ≠ .retiring ∨ 2 ≤ y.refs → ends (gone.withWindow w fun y => { y with refs := y.refs - 1 }))
    ∧ (y.st = .retiring → y.refs = 1 → y.closeTag = none → ends freed)
    ∧ (∀ (j : Fin 8) (e : Deferred), y.st = .retiring → y.refs = 1 → y.closeTag ≠ none → s.deferredAt .windowClose w.val = some j →
        look s.admin.deferred j = some e → e.post = true → ends ((freed.setDeferred j none).adminComplete 0x12 e.tag .ok 0))

/-- R103, R111: a buffer that partition `p` releases goes, in the same step, to the oldest requester of the first partition after the
arbiter's pointer that has a requester and may take a buffer (R106), and the pointer is set to that partition; with no such partition
it stays free. R112: a pass over the free buffers makes the same choice again and again, granting the lowest-numbered free buffer each
time, until no requester may take one or none is free, and 128 grants always reach that end; that no granted slot starts its chunk
between two grants of a pass is the model's choice (notes/assumptions/29.md). That a CLOSED partition may take none, though R106 does
not test the partition's state, is the model's reading (notes/assumptions/21.md). -/
def Obligations.BufferArbitrated : Prop :=
  (∀ (s : State) (b : BNum) (p : PNum),
    let u := ((s.withBuffer b fun x => { x with owner := none }).withPool fun q => { q with free := q.free + 1 }).withPart p fun y =>
      { y with held := y.held - 1 }
    let asks (q : PNum) : Prop := ∃ i, (i, q) ∈ s.pool.waiting
    let may (q : PNum) : Prop := (u.part q).st ≠ .closed
      ∧ ((u.part q).held < (u.part q).reserve ∨ ((u.part q).held < (u.part q).limit ∧ 0 < u.sharedFree))
    ((∀ q, asks q → ¬may q) → s.releaseBuffer b p = (u, none))
    ∧ ∀ (k : Nat) (q : PNum) (i : Fin 32) (before after : List (Fin 32 × PNum)), k < 16 → q.val = (s.pool.pointer.val + 1 + k) % 16 →
      (∀ j < k, ∀ q' : PNum, q'.val = (s.pool.pointer.val + 1 + j) % 16 → asks q' → ¬may q') → may q →
      s.pool.waiting = before ++ (i, q) :: after → (∀ x ∈ before, x.2 ≠ q) →
      s.releaseBuffer b p = (((u.withBuffer b fun x => { x with owner := some i }).withPool fun y =>
        { y with free := y.free - 1, waiting := y.waiting.filter fun x => decide (x.1 ≠ i), pointer := q }).withPart q fun y =>
          { y with held := y.held + 1 }, some i))
  ∧ (∀ (s : State) (n : Nat),
    let asks (q : PNum) : Prop := ∃ i, (i, q) ∈ s.pool.waiting
    ((∀ q, asks q → ¬MayTake s q) ∨ (∀ b, (s.buffer b).owner ≠ none) → State.arbiterPass n s = (s, []))
    ∧ ∀ (k : Nat) (q : PNum) (i : Fin 32) (before after : List (Fin 32 × PNum)) (b : BNum), k < 16 →
      q.val = (s.pool.pointer.val + 1 + k) % 16 →
      (∀ j < k, ∀ q' : PNum, q'.val = (s.pool.pointer.val + 1 + j) % 16 → asks q' → ¬MayTake s q') → MayTake s q →
      s.pool.waiting = before ++ (i, q) :: after → (∀ x ∈ before, x.2 ≠ q) → LowestFree s b →
      let granted := (s.withBufferGranted b i q).withPool fun y =>
        { y with waiting := y.waiting.filter fun x => decide (x.1 ≠ i), pointer := q }
      State.arbiterPass (n + 1) s = ((State.arbiterPass n granted).1, (i, b) :: (State.arbiterPass n granted).2))
  ∧ ∀ s : State, let t := (State.arbiterPass 128 s).1
    (∀ b, (t.buffer b).owner ≠ none) ∨ ∀ i q, (i, q) ∈ t.pool.waiting → ¬MayTake t q

/-! ### Posted writes, the error path and the vectors -/

/-- R181, R98, R189, R192: the first write of the store goes out, a record whole and chunk data in pieces of at most 256 bytes that
do not cross a multiple of 256; the last piece of chunk data gives its data place to the first slot that waits for one, here one whose
member and group end with the chunk it then hands over (R84, R88, R90, R97); a completion whose group needs no error path step frees
its slot. R65: where a barrier group is then its partition's only occupied slot, it runs, here one MARK, answered in the step, or one
FILL of one chunk, whose card write is issued. R37, R40: where that slot was the
last of a QUIESCING partition, it is QUIESCED and the waiting quiesce completes OK; the last of a CLOSING one with no requester
waiting for a buffer, it is CLOSED, the watermark is re-evaluated and the waiting close completes OK (that order is the model's reading,
notes/assumptions/11.md). The pool's event, if any, follows a group's completion (the model's choice, notes/assumptions/28.md). In INIT
and HALTED nothing goes out. -/
def Obligations.PostedWriteIssued : Prop :=
  ∀ (s : State) (w : PostedWrite) (rest : List PostedWrite), s.link.store = w :: rest →
    (s.device.st = .init ∨ s.device.st = .halted → exec .postedWriteIssue s = .next s)
    ∧ (s.device.st = .running → (w.kind = .adminCompletion ∨ w.kind = .counterReport ∨ w.kind = .event ∨ ∃ v, w.kind = .message v) →
        exec .postedWriteIssue s = .next { s with link := { s.link with store := rest, out := some (.write w.addr w.bytes) } })
    ∧ (s.device.st = .running → w.kind = .data → min 256 (256 - w.addr.toNat % 256) < w.bytes.length →
        let n := 256 - w.addr.toNat % 256
        exec .postedWriteIssue s = .next { s with link := { s.link with
          store := { w with addr := w.addr + BitVec.ofNat 64 n, bytes := w.bytes.drop n } :: rest
          out := some (.write w.addr (w.bytes.take n)) } })
    ∧ (s.device.st = .running → w.kind = .data → w.bytes.length ≤ min 256 (256 - w.addr.toNat % 256) →
        (s.link.placeWaiters = [] →
          exec .postedWriteIssue s = .next { s with link := { s.link with store := rest, out := some (.write w.addr w.bytes) } })
        ∧ ∀ (j : Fin 32) (more : List (Fin 32)) (r : SubRecord) (m : MemberCtx) (c : ChunkCtx) (b : BNum), TablesGood s →
          s.link.placeWaiters = j :: more → j ∉ more → (rest.filter fun w => decide (w.kind = .data)).length < 64 →
          LastChunk s j r m c → r.op = 2 → c.phase = .held → c.buffer = some b → s.pool.waiting = [] →
          let handed : State := { s with link := { s.link with
            store := rest ++ [{ kind := .data, addr := r.hostAddr + BitVec.ofNat 64 (2048 * c.chunk), bytes := (s.buffer b).data.take c.size }]
            out := some (.write w.addr w.bytes), placeWaiters := more } }
          exec .postedWriteIssue s = .next (((handed.withBufferBack b (s.slot j).partition).withGroupAnswered j m.refs
            (fun x => { x with bytesDone := x.bytesDone + (r.length.toNat - 2048 * c.chunk) })
            { status := .ok, detail := 0, failedMember := 0 }).reevaluate s.sharedFree))
    ∧ (∀ i, s.device.st = .running → TablesGood s → w.kind = .completion i → (s.slot i).st = .posting →
        (s.slot i).errorDue = false →
        let p := (s.slot i).partition
        let y := s.part p
        let freed := (({ s with link := { s.link with store := rest, out := some (.write w.addr w.bytes) } }).withSlot i fun _ => Slot.free).withPart
          p fun y => { y with slotsHeld := y.slotsHeld - 1 }
        (y.st = .opened → (∀ j, (s.slot j).partition = p → (s.slot j).st ≠ .waitOrder) → exec .postedWriteIssue s = .next freed)
        ∧ (∀ (j : Fin 32) (r : SubRecord), y.st = .opened → j ≠ i → (s.slot j).st = .waitOrder → (s.slot j).partition = p →
            (∀ k, k ≠ i → k ≠ j → (s.slot k).st ≠ .free → (s.slot k).partition ≠ p) → (s.slot j).abort = none →
            (s.slot j).verdict = none → (s.slot j).ctx = none → (s.slot j).chunks = [] → (s.slot j).members = [r] →
            (s.slot j).current = 0 → y.faultCause ≠ some .cqIndex →
            (s.startCheck p r = .ok { op := .mark, primary := none, secondary := none, refs := [] } →
              exec .postedWriteIssue s = .next ((freed.withSlot j fun x => { x with st := .running }).postGroup j
                { status := .ok, detail := 0, failedMember := 0 }))
            ∧ (∀ (w : WNum) (range : CardRange),
                s.startCheck p r = .ok { op := .fill, primary := some range, secondary := none, refs := [w] } →
                r.length.toNat ≤ 2048 → FenceClear s range.base r.length.toNat →
                exec .postedWriteIssue s = .next (((freed.withWindow w fun y => { y with refs := y.refs + 1 }).withSlot j fun x =>
                  { x with
                    st := .running
                    ctx := some { primary := some range, secondary := none, refs := [w], count := 1, next := 1, doneChunks := 0,
                                  doneAhead := [], crc := r.pattern.setWidth 32 }
                    chunks := [{ chunk := 0, size := r.length.toNat, phase := .writing, buffer := none, requests := 0, part := none,
                                 discard := false }] }).withAccess j 0 range.base r.length.toNat
                    (some ((List.range r.length.toNat).map fun n => (r.pattern >>> (8 * (n % 8))).setWidth 8)))))
        ∧ (∀ (k : Fin 8) (e : Deferred), y.st = .quiescing → y.slotsHeld = 1 → s.deferredAt .partitionQuiesce p.val = some k →
            look s.admin.deferred k = some e → e.post = true →
            exec .postedWriteIssue s = .next (((freed.withPart p fun y => { y with st := .quiesced, pendingTag := none }).setDeferred k
              none).adminComplete 0x02 e.tag .ok 0))
        ∧ (∀ (k : Fin 8) (e : Deferred), y.st = .closing → y.slotsHeld = 1 → s.pool.waiting = [] →
            s.deferredAt .partitionClose p.val = some k → look s.admin.deferred k = some e → e.post = true →
            exec .postedWriteIssue s = .next ((((freed.withPart p fun y => { y with st := .closed, pendingTag := none }).evalWatermark).setDeferred
              k none).adminComplete 0x04 e.tag .ok 0)))

/-- R144, R145, R143, R148, R46: the error path step of a failed group acts by the disposition its partition holds then: nothing, a
TRANSFER_ERROR event with the failed member's tag, class and detail, or that event and then a HALT_DISPOSITION fault with its
PARTITION_FAULT event, whose abort the posting slot records (here with no other slot of the partition occupied and no quiesce
pending). R98: a group whose completion has been issued or discarded already then frees its slot; one whose completion has not keeps
it. -/
def Obligations.ErrorPathTaken : Prop :=
  ∀ (s : State) (i : Fin 32) (v : Verdict) (c : ErrorClass),
    s.device.st = .running ∨ (s.device.st = .stopping ∧ s.link.store ≠ []) → TablesGood s → (s.slot i).st = .posting → (s.slot i).errorDue = true →
    (s.slot i).verdict = some v → v.status.errorClass = some c →
    let p := (s.slot i).partition
    let tag := (((s.slot i).members[v.failedMember]?).map SubRecord.tag).getD 0
    let done := s.withSlot i fun x => { x with errorDue := false }
    let told := done.handOver (.transferError p tag c v.detail)
    let faulted := ((({ told with draws := told.draws + 1 }.withPart p fun y =>
      { y with st := .faulted, faultCause := some .haltDisposition, pendingTag := none }).withSlot i fun x =>
        { x with abort := some (x.abort.getD .partitionFault) }).withPool fun q =>
          { q with waiting := q.waiting.filter fun x => decide (x.1 ≠ i) }).handOver (.partitionFault p .haltDisposition)
    let released (u : State) : State := if (s.slot i).posted = true then
        (u.withSlot i fun _ => Slot.free).withPart p fun y => { y with slotsHeld := y.slotsHeld - 1 }
      else u
    let run := exec (.errorPathStep i) s
    let quiet := (s.slot i).posted = true →
      (s.part p).st = .opened ∧ ∀ j, (s.slot j).partition = p → (s.slot j).st ≠ .waitOrder
    ((s.part p).dispositions.of c = .report → quiet → run = .next (released done))
    ∧ ((s.part p).dispositions.of c = .reportEvent → quiet → run = .next (released told))
    ∧ ((s.part p).dispositions.of c = .halt → (s.part p).st = .opened →
        (∀ j ≠ i, (s.slot j).st ≠ .free → (s.slot j).partition ≠ p) → s.deferredAt .partitionQuiesce p.val = none →
        run = .next (released faulted))

/-- R132, R131, R136, R139: the expiry of a GATHERING vector's timer sends its message and leaves it ANNOUNCED with nothing counted; a
stopped timer does not expire, nor does any in HALTED. What was left of the timer's time passes first (the model's choice,
notes/assumptions/1.md), and the message's four bytes stand least significant first (the model's choice, notes/assumptions/27.md). -/
def Obligations.HoldoffExpires : Prop :=
  ∀ (s : State) (n : VNum),
    let v := s.vector n
    ((s.device.st = .halted ∨ v.timer = none) → exec (.holdoffExpiry n) s = .next s)
    ∧ (∀ left, s.device.st ≠ .halted → v.timer = some left → v.st = .gathering → v.enable = true →
        exec (.holdoffExpiry n) s = .next
          (((s.elapse left).withVector n fun v => { v with st := .announced, u := 0, urgent := false, timer := none }).withLink
            fun l => { l with store := l.store ++
              [{ kind := .message n, addr := v.address, bytes := leBytes 4 v.data.toNat }] }))

/-- R131, R133, R135: what a new record and a consumer index write do to a vector in each state, and that a disabled vector ignores
both and sends nothing. R128, R136: a record reported to a vector, and a consumer index write, so change that vector and nothing else,
but that a send adds one message to the write store: the vector's 4 bytes of data for its address, the least significant first (the
model's choice, notes/assumptions/27.md). -/
def Obligations.VectorRules : Prop :=
  (∀ (s : State) (n : VNum) (urgent : Bool),
    let v := s.vector n
    let message : PostedWrite := { kind := .message n, addr := v.address,
                                   bytes := [v.data.setWidth 8, (v.data >>> 8).setWidth 8, (v.data >>> 16).setWidth 8, (v.data >>> 24).setWidth 8] }
    let answered (r : MsgVector × Bool) : State :=
      let u := s.withVector n fun _ => r.1
      if r.2 = true then u.withLink fun l => { l with store := l.store ++ [message] } else u
    s.newRecord n urgent = answered (v.onRecord urgent) ∧ s.consumeWrite n = answered v.onConsume)
  ∧ ∀ (v : MsgVector) (urgent : Bool),
    let sent := { v with st := .announced, u := 0, urgent := false, timer := none }
    let started := if v.holdoff = 0 then none else some (4 * v.holdoff)
    (v.enable = false → v.onRecord urgent = (v, false) ∧ v.onConsume = (v, false) ∧ v.onExpiry = (v, false))
    ∧ (v.enable = true →
        (v.st = .quiet → v.onRecord urgent = if urgent = true ∨ v.threshold = 1 then (sent, true)
          else ({ v with st := .gathering, u := 1, timer := started }, false))
        ∧ (v.st = .gathering → v.onRecord urgent = if urgent = true ∨ v.threshold ≤ v.u + 1 then (sent, true)
          else ({ v with u := v.u + 1 }, false))
        ∧ (v.st = .announced → v.onRecord urgent = ({ v with u := v.u + 1, urgent := v.urgent || urgent }, false))
        ∧ (v.st = .quiet ∨ v.st = .gathering → v.onConsume = (v, false))
        ∧ (v.st = .announced → v.onConsume = if v.u = 0 then ({ v with st := .quiet }, false)
          else if v.urgent = true ∨ v.threshold ≤ v.u then (sent, true)
          else ({ v with st := .gathering, timer := started }, false)))

/-! ### Records and computations -/

/-- R198, R195: every administrative command whose reserved bytes are zero, with every operand at every value its bytes admit, is
64 bytes and reads back as itself; and so does every submission record (R196). R200: the fields of every event record, unused ones
zero. R183, R188, R185, R184: the selector and index of a NOTIFY write and the bits of a CONTROL write name their command, whatever the
other bits hold, and a 64-bit write to NOTIFY is its low 32 bits. -/
def Obligations.RecordsDecode : Prop :=
  (∀ (c : Instr) (bs : List Byte), encodeCommand c = some bs → c.wellFormed = true → bs.length = 64 ∧ decodeCommand bs = c)
  ∧ (∀ r : SubRecord, r.encode.length = 64 ∧ SubRecord.decode r.encode = r)
  ∧ (∀ (e : Event) (pass : Bool),
      let bytes := e.bytes pass
      let fields (kind partition tag cls detail cause count : Nat) : Prop := field bytes 0 1 = kind ∧ field bytes 1 1 = partition
        ∧ field bytes 2 2 = tag ∧ field bytes 4 1 = cls ∧ field bytes 5 1 = detail ∧ field bytes 6 1 = cause ∧ field bytes 8 2 = count
      bytes.length = 16 ∧ field bytes 7 1 = (if pass = true then 128 else 0) ∧ field bytes 10 6 = 0
      ∧ (∀ p tag cls detail, e = .transferError p tag cls detail → detail < 256 → fields 1 p.val tag.toNat
          (match cls with | .window => 1 | .fenced => 2 | .hostRead => 3 | .cardEcc => 4 | .malformed => 5) detail 0 0)
      ∧ (∀ p cause, e = .partitionFault p cause → fields 2 p.val 0 0 0
          (match cause with | .fetchError => 1 | .sqIndex => 2 | .cqIndex => 3 | .haltDisposition => 4) 0)
      ∧ (∀ cause, e = .adminFault cause → fields 3 0 0 0 0 (match cause with | .fetchError => 1 | .sqIndex => 2 | .cqIndex => 3) 0)
      ∧ (∀ k, k < 65536 → (e = .poolLow k → fields 4 0 0 0 0 0 k) ∧ (e = .poolRecovered k → fields 5 0 0 0 0 0 k)
          ∧ (e = .eventsLost k → fields 6 0 0 0 0 0 k)))
  ∧ (∀ (high low8 : BitVec 8) (index : BitVec 16) (upper : BitVec 32),
      let v : BitVec 32 := high ++ low8 ++ index
      let n := low8.toNat
      decodeRegisterWrite 0x040 4 (upper ++ v) = some (decodeNotify v) ∧ decodeRegisterWrite 0x040 8 (upper ++ v) = some (decodeNotify v)
      ∧ (∀ p : PNum, n = p.val → decodeNotify v = .notifySqTail p index)
      ∧ (∀ p : PNum, n = p.val + 16 → decodeNotify v = .notifyCqHead p index)
      ∧ (n = 32 → decodeNotify v = .notifyAdminSqTail index) ∧ (n = 33 → decodeNotify v = .notifyAdminCqHead index)
      ∧ (n = 34 → decodeNotify v = .notifyEventRingHead index) ∧ (35 ≤ n → decodeNotify v = .notifyBadSelector low8 index))
  ∧ ∀ (v : BitVec 64) (enable : Bool),
      (v.getLsbD 1 = true → v.getLsbD 0 = enable → decodeRegisterWrite 0x004 4 v = some (.functionReset enable))
      ∧ (v.getLsbD 1 = false → v.getLsbD 0 = true → decodeRegisterWrite 0x004 4 v = some .enableAttempt)
      ∧ (v.getLsbD 1 = false → v.getLsbD 0 = false → decodeRegisterWrite 0x004 4 v = some .stop)

/-- R99, R87: the partial values of chunks, entered in chunk order, give the register that the bytes one by one give; the register's
step is the reflected CRC of polynomial EDB88320h; and a second DIGEST whose seed is the first's result combined with FFFFFFFFh gives
the CRC of both ranges. -/
def Obligations.DigestIsCrc : Prop :=
  (∀ (r : BitVec 32) (bs : List Byte), crcEnter r bs.length (crcPart bs) = crcBytes r bs)
  ∧ (∀ (r : BitVec 32) (xs ys : List Byte),
      crcFinal (crcBytes (crcFinal (crcBytes r xs) ^^^ 0xFFFFFFFF#32) ys) = crcFinal (crcBytes r (xs ++ ys)))
  ∧ crcFinal (crcBytes 0xFFFFFFFF#32 [0x31, 0x32, 0x33, 0x34, 0x35, 0x36, 0x37, 0x38, 0x39]) = 0xCBF43926#32

/-! ### Laws of every step -/

/-- R8: every step keeps the isolation law. -/
def Obligations.IsolationKept : Prop := ∀ s t : State, Isolated s → step s = .next t → Isolated t

/-- Every step keeps card memory in its canonical form (a law of the model's data, notes/assumptions/3.md; card memory is
that of section 1.1). -/
def Obligations.MemoryFormKept : Prop := ∀ s t : State, MemoryInForm s → step s = .next t → MemoryInForm t

/-- R105: every step keeps the pool able to meet every reserve. -/
def Obligations.PoolCoveredKept : Prop := ∀ s t : State, PoolCovered s → step s = .next t → PoolCovered t

/-- R13, R29: a LOCKED window with its record, and a locked fence list with the ranges of its entries, outlast every command but
power-on reset and bus reset. -/
def Obligations.LocksOutlastCommands : Prop :=
  ∀ (c : Instr) (s t : State), powerOnOrBus c = false → exec c s = .next t →
    (∀ w, (s.window w).st = .locked → (t.window w).st = .locked ∧ (t.window w).owner = (s.window w).owner
      ∧ (t.window w).cardBase = (s.window w).cardBase ∧ (t.window w).length = (s.window w).length
      ∧ (t.window w).access = (s.window w).access)
    ∧ (s.fences.locked = true → t.fences.locked = true
        ∧ ∀ f, (t.fence f).cardBase = (s.fence f).cardBase ∧ (t.fence f).length = (s.fence f).length
          ∧ ((t.fence f).st = .empty ↔ (s.fence f).st = .empty) ∧ ((s.fence f).st = .active → (t.fence f).st = .active))

/-- Section 1.1, R2, R3, R5, R194: no command but the end of a card access, the end of the scrub and, while a scrub runs, a power-on
or bus reset changes a byte of card memory or a mark. -/
def Obligations.OnlyCardCommandsWrite : Prop :=
  ∀ (c : Instr) (s t : State), c ≠ .scrubComplete → (∀ n, c ≠ .cardReadDataReturn n) → (∀ n a b, c ≠ .cardWriteAcknowledge n a b) →
    (powerOnOrBus c = true → s.card.scrub = none) → exec c s = .next t → t.card.mem = s.card.mem ∧ t.card.marks = s.card.marks

/-- R192, R101, R119, R139, R140, R157, R158: in HALTED every command but a reset leaves HALTED and its cause, the windows, the
partitions, the scheduler, the slots, the pool, the poster, the vectors, the event ring, the read queue and the write store as they
stand. -/
def Obligations.HaltedFreezes : Prop :=
  ∀ (c : Instr) (s t : State), powerOnOrBus c = false → (∀ b, c ≠ .functionReset b) → c ≠ .pcieFunctionLevelReset →
    s.device.st = .halted → exec c s = .next t →
    t.device.st = .halted ∧ t.device.haltCause = s.device.haltCause ∧ t.windows = s.windows ∧ t.parts = s.parts
    ∧ t.sched = s.sched ∧ t.slots = s.slots ∧ t.pool = s.pool ∧ t.poster = s.poster ∧ t.vectors = s.vectors
    ∧ t.events = s.events ∧ t.link.queue = s.link.queue ∧ t.link.store = s.link.store
end

