-- ==== Sys2Proof/Laws/Tables.lean ====
section
/-! SUPPORT. The fixed-size tables: what an entry reads after a change, and what the searches over them find. -/

namespace Sys2Proof.Machine.Laws

section Tables
variable {n : Nat} {α β : Type}

@[simp] theorem look_upd_same (v : Vector α n) (i : Fin n) (f : α → α) : look (upd v i f) i = f (look v i) := by
  simp [look, upd]

theorem look_upd_ne (v : Vector α n) (i j : Fin n) (f : α → α) (h : j ≠ i) : look (upd v i f) j = look v j := by
  have h' : i.val ≠ j.val := fun e => h (Fin.ext e.symm)
  simp [look, upd, Vector.getElem_set_ne, h']

theorem look_upd (v : Vector α n) (i j : Fin n) (f : α → α) :
    look (upd v i f) j = if j = i then f (look v i) else look v j := by
  by_cases h : j = i
  · subst h; simp
  · simp [h, look_upd_ne]

@[simp] theorem look_tabulate (f : Fin n → α) (i : Fin n) : look (tabulate f) i = f i := by
  simp [look, tabulate]

@[simp] theorem look_mapTab (f : Fin n → α → β) (v : Vector α n) (i : Fin n) : look (mapTab f v) i = f i (look v i) := by
  simp [mapTab]

@[simp] theorem look_replicate (x : α) (i : Fin n) : look (Vector.replicate n x) i = x := by
  simp [look]

/-- Tables with the same entries are the same table. -/
theorem table_ext (v w : Vector α n) (h : ∀ i, look v i = look w i) : v = w := by
  apply Vector.ext
  intro i hi
  exact h ⟨i, hi⟩

/-- A change that leaves the entry as it was leaves the table as it was. -/
theorem upd_eq_self (v : Vector α n) (i : Fin n) (f : α → α) (h : f (look v i) = look v i) : upd v i f = v := by
  apply table_ext
  intro j
  by_cases e : j = i
  · subst e; simp [h]
  · simp [look_upd_ne _ _ _ _ e]

/-- What `lowest` finds satisfies the predicate. -/
theorem lowest_some {p : Fin n → Bool} {i : Fin n} (h : lowest p = some i) : p i = true := List.find?_some h

/-- `lowest` finds nothing exactly when nothing satisfies the predicate. -/
theorem lowest_none {p : Fin n → Bool} : lowest p = none ↔ ∀ i, p i = false := by
  simp [lowest, List.find?_eq_none]

/-- No number below the one found satisfies the predicate. -/
theorem lowest_least {p : Fin n → Bool} {i : Fin n} (h : lowest p = some i) (j : Fin n) (hj : j < i) : p j = false := by
  unfold lowest at h
  rw [List.find?_eq_some_iff_append] at h
  obtain ⟨-, as, bs, e, ha⟩ := h
  have hs : (List.finRange n).Pairwise (· < ·) := List.pairwise_lt_finRange n
  rw [e, List.pairwise_append] at hs
  have hm : j ∈ as ++ i :: bs := e ▸ List.mem_finRange j
  rw [List.mem_append] at hm
  rcases hm with hm | hm
  · simpa using ha j hm
  · rcases List.mem_cons.mp hm with e' | hb
    · exact absurd (e' ▸ hj) (lt_irrefl _)
    · exact absurd hj (not_lt.mpr (le_of_lt (List.rel_of_pairwise_cons hs.2.1 hb)))

/-- The lowest number that satisfies the predicate is what `lowest` finds. -/
theorem lowest_eq_some {p : Fin n → Bool} {i : Fin n} (hi : p i = true) (hl : ∀ j < i, p j = false) : lowest p = some i := by
  cases e : lowest p with
  | none => simp [lowest_none.mp e i] at hi
  | some k =>
    rcases lt_trichotomy k i with h | h | h
    · exact absurd (lowest_some e) (by simp [hl k h])
    · rw [h]
    · simp [lowest_least e i h] at hi

@[simp] theorem mem_which {p : Fin n → Bool} {i : Fin n} : i ∈ which p ↔ p i = true := by
  simp [which]

end Tables

/-- A number below the size of a table is an entry number. -/
theorem asNum_of_lt {k n : Nat} (h : n < k) : asNum k n = some ⟨n, h⟩ := by simp [asNum, h]

theorem asNum_eq_none {k n : Nat} : asNum k n = none ↔ k ≤ n := by
  unfold asNum; split <;> simp <;> omega

@[simp] theorem asNum_val {k : Nat} (i : Fin k) : asNum k i.val = some i := by simp [asNum]

end Sys2Proof.Machine.Laws
end

