-- ==== Sys2Proof/Laws/State.lean ====
section
/-! SUPPORT. What each update of the state leaves of each block and each entry: one lemma per field per update.
A proof written `(rfl)`, in brackets, keeps its lemma an ordinary rewrite rule, which the side goals of `simp` can use. -/

namespace Sys2Proof.Machine.Laws

variable (s : State)

section withDevice
variable (f : Device → Device)
@[simp] theorem withDevice_device : (s.withDevice f).device = f s.device := (rfl)
@[simp] theorem withDevice_card : (s.withDevice f).card = s.card := (rfl)
@[simp] theorem withDevice_windows : (s.withDevice f).windows = s.windows := (rfl)
@[simp] theorem withDevice_fences : (s.withDevice f).fences = s.fences := (rfl)
@[simp] theorem withDevice_parts : (s.withDevice f).parts = s.parts := (rfl)
@[simp] theorem withDevice_sched : (s.withDevice f).sched = s.sched := (rfl)
@[simp] theorem withDevice_slots : (s.withDevice f).slots = s.slots := (rfl)
@[simp] theorem withDevice_pool : (s.withDevice f).pool = s.pool := (rfl)
@[simp] theorem withDevice_poster : (s.withDevice f).poster = s.poster := (rfl)
@[simp] theorem withDevice_vectors : (s.withDevice f).vectors = s.vectors := (rfl)
@[simp] theorem withDevice_events : (s.withDevice f).events = s.events := (rfl)
@[simp] theorem withDevice_admin : (s.withDevice f).admin = s.admin := (rfl)
@[simp] theorem withDevice_link : (s.withDevice f).link = s.link := (rfl)
@[simp] theorem withDevice_draws : (s.withDevice f).draws = s.draws := (rfl)
@[simp] theorem withDevice_pending : (s.withDevice f).pending = s.pending := (rfl)
@[simp] theorem withDevice_window (k : WNum) : (s.withDevice f).window k = s.window k := (rfl)
@[simp] theorem withDevice_fence (k : FNum) : (s.withDevice f).fence k = s.fence k := (rfl)
@[simp] theorem withDevice_part (k : PNum) : (s.withDevice f).part k = s.part k := (rfl)
@[simp] theorem withDevice_slot (k : SNum) : (s.withDevice f).slot k = s.slot k := (rfl)
@[simp] theorem withDevice_vector (k : VNum) : (s.withDevice f).vector k = s.vector k := (rfl)
@[simp] theorem withDevice_buffer (k : BNum) : (s.withDevice f).buffer k = s.buffer k := (rfl)
@[simp] theorem withDevice_tag (k : TNum) : (s.withDevice f).tag k = s.tag k := (rfl)
@[simp] theorem withDevice_assembling (k : PNum) : (s.withDevice f).assembling k = s.assembling k := (rfl)
end withDevice

section withCard
variable (f : Card → Card)
@[simp] theorem withCard_device : (s.withCard f).device = s.device := (rfl)
@[simp] theorem withCard_card : (s.withCard f).card = f s.card := (rfl)
@[simp] theorem withCard_windows : (s.withCard f).windows = s.windows := (rfl)
@[simp] theorem withCard_fences : (s.withCard f).fences = s.fences := (rfl)
@[simp] theorem withCard_parts : (s.withCard f).parts = s.parts := (rfl)
@[simp] theorem withCard_sched : (s.withCard f).sched = s.sched := (rfl)
@[simp] theorem withCard_slots : (s.withCard f).slots = s.slots := (rfl)
@[simp] theorem withCard_pool : (s.withCard f).pool = s.pool := (rfl)
@[simp] theorem withCard_poster : (s.withCard f).poster = s.poster := (rfl)
@[simp] theorem withCard_vectors : (s.withCard f).vectors = s.vectors := (rfl)
@[simp] theorem withCard_events : (s.withCard f).events = s.events := (rfl)
@[simp] theorem withCard_admin : (s.withCard f).admin = s.admin := (rfl)
@[simp] theorem withCard_link : (s.withCard f).link = s.link := (rfl)
@[simp] theorem withCard_draws : (s.withCard f).draws = s.draws := (rfl)
@[simp] theorem withCard_pending : (s.withCard f).pending = s.pending := (rfl)
@[simp] theorem withCard_window (k : WNum) : (s.withCard f).window k = s.window k := (rfl)
@[simp] theorem withCard_fence (k : FNum) : (s.withCard f).fence k = s.fence k := (rfl)
@[simp] theorem withCard_part (k : PNum) : (s.withCard f).part k = s.part k := (rfl)
@[simp] theorem withCard_slot (k : SNum) : (s.withCard f).slot k = s.slot k := (rfl)
@[simp] theorem withCard_vector (k : VNum) : (s.withCard f).vector k = s.vector k := (rfl)
@[simp] theorem withCard_buffer (k : BNum) : (s.withCard f).buffer k = s.buffer k := (rfl)
@[simp] theorem withCard_tag (k : TNum) : (s.withCard f).tag k = s.tag k := (rfl)
@[simp] theorem withCard_assembling (k : PNum) : (s.withCard f).assembling k = s.assembling k := (rfl)
@[simp] theorem withCard_running : (s.withCard f).running = s.running := (rfl)
@[simp] theorem withCard_stopping : (s.withCard f).stopping = s.stopping := (rfl)
@[simp] theorem withCard_halted : (s.withCard f).halted = s.halted := (rfl)
@[simp] theorem withCard_active : (s.withCard f).active = s.active := (rfl)
end withCard

section withFences
variable (f : FenceUnit → FenceUnit)
@[simp] theorem withFences_device : (s.withFences f).device = s.device := (rfl)
@[simp] theorem withFences_card : (s.withFences f).card = s.card := (rfl)
@[simp] theorem withFences_windows : (s.withFences f).windows = s.windows := (rfl)
@[simp] theorem withFences_fences : (s.withFences f).fences = f s.fences := (rfl)
@[simp] theorem withFences_parts : (s.withFences f).parts = s.parts := (rfl)
@[simp] theorem withFences_sched : (s.withFences f).sched = s.sched := (rfl)
@[simp] theorem withFences_slots : (s.withFences f).slots = s.slots := (rfl)
@[simp] theorem withFences_pool : (s.withFences f).pool = s.pool := (rfl)
@[simp] theorem withFences_poster : (s.withFences f).poster = s.poster := (rfl)
@[simp] theorem withFences_vectors : (s.withFences f).vectors = s.vectors := (rfl)
@[simp] theorem withFences_events : (s.withFences f).events = s.events := (rfl)
@[simp] theorem withFences_admin : (s.withFences f).admin = s.admin := (rfl)
@[simp] theorem withFences_link : (s.withFences f).link = s.link := (rfl)
@[simp] theorem withFences_draws : (s.withFences f).draws = s.draws := (rfl)
@[simp] theorem withFences_pending : (s.withFences f).pending = s.pending := (rfl)
@[simp] theorem withFences_window (k : WNum) : (s.withFences f).window k = s.window k := (rfl)
@[simp] theorem withFences_part (k : PNum) : (s.withFences f).part k = s.part k := (rfl)
@[simp] theorem withFences_slot (k : SNum) : (s.withFences f).slot k = s.slot k := (rfl)
@[simp] theorem withFences_vector (k : VNum) : (s.withFences f).vector k = s.vector k := (rfl)
@[simp] theorem withFences_buffer (k : BNum) : (s.withFences f).buffer k = s.buffer k := (rfl)
@[simp] theorem withFences_tag (k : TNum) : (s.withFences f).tag k = s.tag k := (rfl)
@[simp] theorem withFences_assembling (k : PNum) : (s.withFences f).assembling k = s.assembling k := (rfl)
@[simp] theorem withFences_running : (s.withFences f).running = s.running := (rfl)
@[simp] theorem withFences_stopping : (s.withFences f).stopping = s.stopping := (rfl)
@[simp] theorem withFences_halted : (s.withFences f).halted = s.halted := (rfl)
@[simp] theorem withFences_active : (s.withFences f).active = s.active := (rfl)
end withFences

section withSched
variable (f : Scheduler → Scheduler)
@[simp] theorem withSched_device : (s.withSched f).device = s.device := (rfl)
@[simp] theorem withSched_card : (s.withSched f).card = s.card := (rfl)
@[simp] theorem withSched_windows : (s.withSched f).windows = s.windows := (rfl)
@[simp] theorem withSched_fences : (s.withSched f).fences = s.fences := (rfl)
@[simp] theorem withSched_parts : (s.withSched f).parts = s.parts := (rfl)
@[simp] theorem withSched_sched : (s.withSched f).sched = f s.sched := (rfl)
@[simp] theorem withSched_slots : (s.withSched f).slots = s.slots := (rfl)
@[simp] theorem withSched_pool : (s.withSched f).pool = s.pool := (rfl)
@[simp] theorem withSched_poster : (s.withSched f).poster = s.poster := (rfl)
@[simp] theorem withSched_vectors : (s.withSched f).vectors = s.vectors := (rfl)
@[simp] theorem withSched_events : (s.withSched f).events = s.events := (rfl)
@[simp] theorem withSched_admin : (s.withSched f).admin = s.admin := (rfl)
@[simp] theorem withSched_link : (s.withSched f).link = s.link := (rfl)
@[simp] theorem withSched_draws : (s.withSched f).draws = s.draws := (rfl)
@[simp] theorem withSched_pending : (s.withSched f).pending = s.pending := (rfl)
@[simp] theorem withSched_window (k : WNum) : (s.withSched f).window k = s.window k := (rfl)
@[simp] theorem withSched_fence (k : FNum) : (s.withSched f).fence k = s.fence k := (rfl)
@[simp] theorem withSched_part (k : PNum) : (s.withSched f).part k = s.part k := (rfl)
@[simp] theorem withSched_slot (k : SNum) : (s.withSched f).slot k = s.slot k := (rfl)
@[simp] theorem withSched_vector (k : VNum) : (s.withSched f).vector k = s.vector k := (rfl)
@[simp] theorem withSched_buffer (k : BNum) : (s.withSched f).buffer k = s.buffer k := (rfl)
@[simp] theorem withSched_tag (k : TNum) : (s.withSched f).tag k = s.tag k := (rfl)
@[simp] theorem withSched_running : (s.withSched f).running = s.running := (rfl)
@[simp] theorem withSched_stopping : (s.withSched f).stopping = s.stopping := (rfl)
@[simp] theorem withSched_halted : (s.withSched f).halted = s.halted := (rfl)
@[simp] theorem withSched_active : (s.withSched f).active = s.active := (rfl)
end withSched

section withPool
variable (f : Pool → Pool)
@[simp] theorem withPool_device : (s.withPool f).device = s.device := (rfl)
@[simp] theorem withPool_card : (s.withPool f).card = s.card := (rfl)
@[simp] theorem withPool_windows : (s.withPool f).windows = s.windows := (rfl)
@[simp] theorem withPool_fences : (s.withPool f).fences = s.fences := (rfl)
@[simp] theorem withPool_parts : (s.withPool f).parts = s.parts := (rfl)
@[simp] theorem withPool_sched : (s.withPool f).sched = s.sched := (rfl)
@[simp] theorem withPool_slots : (s.withPool f).slots = s.slots := (rfl)
@[simp] theorem withPool_pool : (s.withPool f).pool = f s.pool := (rfl)
@[simp] theorem withPool_poster : (s.withPool f).poster = s.poster := (rfl)
@[simp] theorem withPool_vectors : (s.withPool f).vectors = s.vectors := (rfl)
@[simp] theorem withPool_events : (s.withPool f).events = s.events := (rfl)
@[simp] theorem withPool_admin : (s.withPool f).admin = s.admin := (rfl)
@[simp] theorem withPool_link : (s.withPool f).link = s.link := (rfl)
@[simp] theorem withPool_draws : (s.withPool f).draws = s.draws := (rfl)
@[simp] theorem withPool_pending : (s.withPool f).pending = s.pending := (rfl)
@[simp] theorem withPool_window (k : WNum) : (s.withPool f).window k = s.window k := (rfl)
@[simp] theorem withPool_fence (k : FNum) : (s.withPool f).fence k = s.fence k := (rfl)
@[simp] theorem withPool_part (k : PNum) : (s.withPool f).part k = s.part k := (rfl)
@[simp] theorem withPool_slot (k : SNum) : (s.withPool f).slot k = s.slot k := (rfl)
@[simp] theorem withPool_vector (k : VNum) : (s.withPool f).vector k = s.vector k := (rfl)
@[simp] theorem withPool_tag (k : TNum) : (s.withPool f).tag k = s.tag k := (rfl)
@[simp] theorem withPool_assembling (k : PNum) : (s.withPool f).assembling k = s.assembling k := (rfl)
@[simp] theorem withPool_running : (s.withPool f).running = s.running := (rfl)
@[simp] theorem withPool_stopping : (s.withPool f).stopping = s.stopping := (rfl)
@[simp] theorem withPool_halted : (s.withPool f).halted = s.halted := (rfl)
@[simp] theorem withPool_active : (s.withPool f).active = s.active := (rfl)
end withPool

section withPoster
variable (f : Poster → Poster)
@[simp] theorem withPoster_device : (s.withPoster f).device = s.device := (rfl)
@[simp] theorem withPoster_card : (s.withPoster f).card = s.card := (rfl)
@[simp] theorem withPoster_windows : (s.withPoster f).windows = s.windows := (rfl)
@[simp] theorem withPoster_fences : (s.withPoster f).fences = s.fences := (rfl)
@[simp] theorem withPoster_parts : (s.withPoster f).parts = s.parts := (rfl)
@[simp] theorem withPoster_sched : (s.withPoster f).sched = s.sched := (rfl)
@[simp] theorem withPoster_slots : (s.withPoster f).slots = s.slots := (rfl)
@[simp] theorem withPoster_pool : (s.withPoster f).pool = s.pool := (rfl)
@[simp] theorem withPoster_poster : (s.withPoster f).poster = f s.poster := (rfl)
@[simp] theorem withPoster_vectors : (s.withPoster f).vectors = s.vectors := (rfl)
@[simp] theorem withPoster_events : (s.withPoster f).events = s.events := (rfl)
@[simp] theorem withPoster_admin : (s.withPoster f).admin = s.admin := (rfl)
@[simp] theorem withPoster_link : (s.withPoster f).link = s.link := (rfl)
@[simp] theorem withPoster_draws : (s.withPoster f).draws = s.draws := (rfl)
@[simp] theorem withPoster_pending : (s.withPoster f).pending = s.pending := (rfl)
@[simp] theorem withPoster_window (k : WNum) : (s.withPoster f).window k = s.window k := (rfl)
@[simp] theorem withPoster_fence (k : FNum) : (s.withPoster f).fence k = s.fence k := (rfl)
@[simp] theorem withPoster_part (k : PNum) : (s.withPoster f).part k = s.part k := (rfl)
@[simp] theorem withPoster_slot (k : SNum) : (s.withPoster f).slot k = s.slot k := (rfl)
@[simp] theorem withPoster_vector (k : VNum) : (s.withPoster f).vector k = s.vector k := (rfl)
@[simp] theorem withPoster_buffer (k : BNum) : (s.withPoster f).buffer k = s.buffer k := (rfl)
@[simp] theorem withPoster_tag (k : TNum) : (s.withPoster f).tag k = s.tag k := (rfl)
@[simp] theorem withPoster_assembling (k : PNum) : (s.withPoster f).assembling k = s.assembling k := (rfl)
@[simp] theorem withPoster_running : (s.withPoster f).running = s.running := (rfl)
@[simp] theorem withPoster_stopping : (s.withPoster f).stopping = s.stopping := (rfl)
@[simp] theorem withPoster_halted : (s.withPoster f).halted = s.halted := (rfl)
@[simp] theorem withPoster_active : (s.withPoster f).active = s.active := (rfl)
end withPoster

section withEvents
variable (f : EventRing → EventRing)
@[simp] theorem withEvents_device : (s.withEvents f).device = s.device := (rfl)
@[simp] theorem withEvents_card : (s.withEvents f).card = s.card := (rfl)
@[simp] theorem withEvents_windows : (s.withEvents f).windows = s.windows := (rfl)
@[simp] theorem withEvents_fences : (s.withEvents f).fences = s.fences := (rfl)
@[simp] theorem withEvents_parts : (s.withEvents f).parts = s.parts := (rfl)
@[simp] theorem withEvents_sched : (s.withEvents f).sched = s.sched := (rfl)
@[simp] theorem withEvents_slots : (s.withEvents f).slots = s.slots := (rfl)
@[simp] theorem withEvents_pool : (s.withEvents f).pool = s.pool := (rfl)
@[simp] theorem withEvents_poster : (s.withEvents f).poster = s.poster := (rfl)
@[simp] theorem withEvents_vectors : (s.withEvents f).vectors = s.vectors := (rfl)
@[simp] theorem withEvents_events : (s.withEvents f).events = f s.events := (rfl)
@[simp] theorem withEvents_admin : (s.withEvents f).admin = s.admin := (rfl)
@[simp] theorem withEvents_link : (s.withEvents f).link = s.link := (rfl)
@[simp] theorem withEvents_draws : (s.withEvents f).draws = s.draws := (rfl)
@[simp] theorem withEvents_pending : (s.withEvents f).pending = s.pending := (rfl)
@[simp] theorem withEvents_window (k : WNum) : (s.withEvents f).window k = s.window k := (rfl)
@[simp] theorem withEvents_fence (k : FNum) : (s.withEvents f).fence k = s.fence k := (rfl)
@[simp] theorem withEvents_part (k : PNum) : (s.withEvents f).part k = s.part k := (rfl)
@[simp] theorem withEvents_slot (k : SNum) : (s.withEvents f).slot k = s.slot k := (rfl)
@[simp] theorem withEvents_vector (k : VNum) : (s.withEvents f).vector k = s.vector k := (rfl)
@[simp] theorem withEvents_buffer (k : BNum) : (s.withEvents f).buffer k = s.buffer k := (rfl)
@[simp] theorem withEvents_tag (k : TNum) : (s.withEvents f).tag k = s.tag k := (rfl)
@[simp] theorem withEvents_assembling (k : PNum) : (s.withEvents f).assembling k = s.assembling k := (rfl)
@[simp] theorem withEvents_running : (s.withEvents f).running = s.running := (rfl)
@[simp] theorem withEvents_stopping : (s.withEvents f).stopping = s.stopping := (rfl)
@[simp] theorem withEvents_halted : (s.withEvents f).halted = s.halted := (rfl)
@[simp] theorem withEvents_active : (s.withEvents f).active = s.active := (rfl)
end withEvents

section withAdmin
variable (f : Admin → Admin)
@[simp] theorem withAdmin_device : (s.withAdmin f).device = s.device := (rfl)
@[simp] theorem withAdmin_card : (s.withAdmin f).card = s.card := (rfl)
@[simp] theorem withAdmin_windows : (s.withAdmin f).windows = s.windows := (rfl)
@[simp] theorem withAdmin_fences : (s.withAdmin f).fences = s.fences := (rfl)
@[simp] theorem withAdmin_parts : (s.withAdmin f).parts = s.parts := (rfl)
@[simp] theorem withAdmin_sched : (s.withAdmin f).sched = s.sched := (rfl)
@[simp] theorem withAdmin_slots : (s.withAdmin f).slots = s.slots := (rfl)
@[simp] theorem withAdmin_pool : (s.withAdmin f).pool = s.pool := (rfl)
@[simp] theorem withAdmin_poster : (s.withAdmin f).poster = s.poster := (rfl)
@[simp] theorem withAdmin_vectors : (s.withAdmin f).vectors = s.vectors := (rfl)
@[simp] theorem withAdmin_events : (s.withAdmin f).events = s.events := (rfl)
@[simp] theorem withAdmin_admin : (s.withAdmin f).admin = f s.admin := (rfl)
@[simp] theorem withAdmin_link : (s.withAdmin f).link = s.link := (rfl)
@[simp] theorem withAdmin_draws : (s.withAdmin f).draws = s.draws := (rfl)
@[simp] theorem withAdmin_pending : (s.withAdmin f).pending = s.pending := (rfl)
@[simp] theorem withAdmin_window (k : WNum) : (s.withAdmin f).window k = s.window k := (rfl)
@[simp] theorem withAdmin_fence (k : FNum) : (s.withAdmin f).fence k = s.fence k := (rfl)
@[simp] theorem withAdmin_part (k : PNum) : (s.withAdmin f).part k = s.part k := (rfl)
@[simp] theorem withAdmin_slot (k : SNum) : (s.withAdmin f).slot k = s.slot k := (rfl)
@[simp] theorem withAdmin_vector (k : VNum) : (s.withAdmin f).vector k = s.vector k := (rfl)
@[simp] theorem withAdmin_buffer (k : BNum) : (s.withAdmin f).buffer k = s.buffer k := (rfl)
@[simp] theorem withAdmin_tag (k : TNum) : (s.withAdmin f).tag k = s.tag k := (rfl)
@[simp] theorem withAdmin_assembling (k : PNum) : (s.withAdmin f).assembling k = s.assembling k := (rfl)
@[simp] theorem withAdmin_running : (s.withAdmin f).running = s.running := (rfl)
@[simp] theorem withAdmin_stopping : (s.withAdmin f).stopping = s.stopping := (rfl)
@[simp] theorem withAdmin_halted : (s.withAdmin f).halted = s.halted := (rfl)
@[simp] theorem withAdmin_active : (s.withAdmin f).active = s.active := (rfl)
end withAdmin

section withLink
variable (f : Link → Link)
@[simp] theorem withLink_device : (s.withLink f).device = s.device := (rfl)
@[simp] theorem withLink_card : (s.withLink f).card = s.card := (rfl)
@[simp] theorem withLink_windows : (s.withLink f).windows = s.windows := (rfl)
@[simp] theorem withLink_fences : (s.withLink f).fences = s.fences := (rfl)
@[simp] theorem withLink_parts : (s.withLink f).parts = s.parts := (rfl)
@[simp] theorem withLink_sched : (s.withLink f).sched = s.sched := (rfl)
@[simp] theorem withLink_slots : (s.withLink f).slots = s.slots := (rfl)
@[simp] theorem withLink_pool : (s.withLink f).pool = s.pool := (rfl)
@[simp] theorem withLink_poster : (s.withLink f).poster = s.poster := (rfl)
@[simp] theorem withLink_vectors : (s.withLink f).vectors = s.vectors := (rfl)
@[simp] theorem withLink_events : (s.withLink f).events = s.events := (rfl)
@[simp] theorem withLink_admin : (s.withLink f).admin = s.admin := (rfl)
@[simp] theorem withLink_link : (s.withLink f).link = f s.link := (rfl)
@[simp] theorem withLink_draws : (s.withLink f).draws = s.draws := (rfl)
@[simp] theorem withLink_pending : (s.withLink f).pending = s.pending := (rfl)
@[simp] theorem withLink_window (k : WNum) : (s.withLink f).window k = s.window k := (rfl)
@[simp] theorem withLink_fence (k : FNum) : (s.withLink f).fence k = s.fence k := (rfl)
@[simp] theorem withLink_part (k : PNum) : (s.withLink f).part k = s.part k := (rfl)
@[simp] theorem withLink_slot (k : SNum) : (s.withLink f).slot k = s.slot k := (rfl)
@[simp] theorem withLink_vector (k : VNum) : (s.withLink f).vector k = s.vector k := (rfl)
@[simp] theorem withLink_buffer (k : BNum) : (s.withLink f).buffer k = s.buffer k := (rfl)
@[simp] theorem withLink_assembling (k : PNum) : (s.withLink f).assembling k = s.assembling k := (rfl)
@[simp] theorem withLink_running : (s.withLink f).running = s.running := (rfl)
@[simp] theorem withLink_stopping : (s.withLink f).stopping = s.stopping := (rfl)
@[simp] theorem withLink_halted : (s.withLink f).halted = s.halted := (rfl)
@[simp] theorem withLink_active : (s.withLink f).active = s.active := (rfl)
end withLink

section withWindow
variable (w : WNum) (f : Window → Window)
@[simp] theorem withWindow_device : (s.withWindow w f).device = s.device := (rfl)
@[simp] theorem withWindow_card : (s.withWindow w f).card = s.card := (rfl)
@[simp] theorem withWindow_windows : (s.withWindow w f).windows = upd s.windows w f := (rfl)
@[simp] theorem withWindow_fences : (s.withWindow w f).fences = s.fences := (rfl)
@[simp] theorem withWindow_parts : (s.withWindow w f).parts = s.parts := (rfl)
@[simp] theorem withWindow_sched : (s.withWindow w f).sched = s.sched := (rfl)
@[simp] theorem withWindow_slots : (s.withWindow w f).slots = s.slots := (rfl)
@[simp] theorem withWindow_pool : (s.withWindow w f).pool = s.pool := (rfl)
@[simp] theorem withWindow_poster : (s.withWindow w f).poster = s.poster := (rfl)
@[simp] theorem withWindow_vectors : (s.withWindow w f).vectors = s.vectors := (rfl)
@[simp] theorem withWindow_events : (s.withWindow w f).events = s.events := (rfl)
@[simp] theorem withWindow_admin : (s.withWindow w f).admin = s.admin := (rfl)
@[simp] theorem withWindow_link : (s.withWindow w f).link = s.link := (rfl)
@[simp] theorem withWindow_draws : (s.withWindow w f).draws = s.draws := (rfl)
@[simp] theorem withWindow_pending : (s.withWindow w f).pending = s.pending := (rfl)
@[simp] theorem withWindow_fence (k : FNum) : (s.withWindow w f).fence k = s.fence k := (rfl)
@[simp] theorem withWindow_part (k : PNum) : (s.withWindow w f).part k = s.part k := (rfl)
@[simp] theorem withWindow_slot (k : SNum) : (s.withWindow w f).slot k = s.slot k := (rfl)
@[simp] theorem withWindow_vector (k : VNum) : (s.withWindow w f).vector k = s.vector k := (rfl)
@[simp] theorem withWindow_buffer (k : BNum) : (s.withWindow w f).buffer k = s.buffer k := (rfl)
@[simp] theorem withWindow_tag (k : TNum) : (s.withWindow w f).tag k = s.tag k := (rfl)
@[simp] theorem withWindow_assembling (k : PNum) : (s.withWindow w f).assembling k = s.assembling k := (rfl)
@[simp] theorem withWindow_running : (s.withWindow w f).running = s.running := (rfl)
@[simp] theorem withWindow_stopping : (s.withWindow w f).stopping = s.stopping := (rfl)
@[simp] theorem withWindow_halted : (s.withWindow w f).halted = s.halted := (rfl)
@[simp] theorem withWindow_active : (s.withWindow w f).active = s.active := (rfl)
end withWindow

section withPart
variable (p : PNum) (f : Partition → Partition)
@[simp] theorem withPart_device : (s.withPart p f).device = s.device := (rfl)
@[simp] theorem withPart_card : (s.withPart p f).card = s.card := (rfl)
@[simp] theorem withPart_windows : (s.withPart p f).windows = s.windows := (rfl)
@[simp] theorem withPart_fences : (s.withPart p f).fences = s.fences := (rfl)
@[simp] theorem withPart_parts : (s.withPart p f).parts = upd s.parts p f := (rfl)
@[simp] theorem withPart_sched : (s.withPart p f).sched = s.sched := (rfl)
@[simp] theorem withPart_slots : (s.withPart p f).slots = s.slots := (rfl)
@[simp] theorem withPart_pool : (s.withPart p f).pool = s.pool := (rfl)
@[simp] theorem withPart_poster : (s.withPart p f).poster = s.poster := (rfl)
@[simp] theorem withPart_vectors : (s.withPart p f).vectors = s.vectors := (rfl)
@[simp] theorem withPart_events : (s.withPart p f).events = s.events := (rfl)
@[simp] theorem withPart_admin : (s.withPart p f).admin = s.admin := (rfl)
@[simp] theorem withPart_link : (s.withPart p f).link = s.link := (rfl)
@[simp] theorem withPart_draws : (s.withPart p f).draws = s.draws := (rfl)
@[simp] theorem withPart_pending : (s.withPart p f).pending = s.pending := (rfl)
@[simp] theorem withPart_window (k : WNum) : (s.withPart p f).window k = s.window k := (rfl)
@[simp] theorem withPart_fence (k : FNum) : (s.withPart p f).fence k = s.fence k := (rfl)
@[simp] theorem withPart_slot (k : SNum) : (s.withPart p f).slot k = s.slot k := (rfl)
@[simp] theorem withPart_vector (k : VNum) : (s.withPart p f).vector k = s.vector k := (rfl)
@[simp] theorem withPart_buffer (k : BNum) : (s.withPart p f).buffer k = s.buffer k := (rfl)
@[simp] theorem withPart_tag (k : TNum) : (s.withPart p f).tag k = s.tag k := (rfl)
@[simp] theorem withPart_assembling (k : PNum) : (s.withPart p f).assembling k = s.assembling k := (rfl)
@[simp] theorem withPart_running : (s.withPart p f).running = s.running := (rfl)
@[simp] theorem withPart_stopping : (s.withPart p f).stopping = s.stopping := (rfl)
@[simp] theorem withPart_halted : (s.withPart p f).halted = s.halted := (rfl)
@[simp] theorem withPart_active : (s.withPart p f).active = s.active := (rfl)
end withPart

section withSlot
variable (i : SNum) (f : Slot → Slot)
@[simp] theorem withSlot_device : (s.withSlot i f).device = s.device := (rfl)
@[simp] theorem withSlot_card : (s.withSlot i f).card = s.card := (rfl)
@[simp] theorem withSlot_windows : (s.withSlot i f).windows = s.windows := (rfl)
@[simp] theorem withSlot_fences : (s.withSlot i f).fences = s.fences := (rfl)
@[simp] theorem withSlot_parts : (s.withSlot i f).parts = s.parts := (rfl)
@[simp] theorem withSlot_sched : (s.withSlot i f).sched = s.sched := (rfl)
@[simp] theorem withSlot_slots : (s.withSlot i f).slots = upd s.slots i f := (rfl)
@[simp] theorem withSlot_pool : (s.withSlot i f).pool = s.pool := (rfl)
@[simp] theorem withSlot_poster : (s.withSlot i f).poster = s.poster := (rfl)
@[simp] theorem withSlot_vectors : (s.withSlot i f).vectors = s.vectors := (rfl)
@[simp] theorem withSlot_events : (s.withSlot i f).events = s.events := (rfl)
@[simp] theorem withSlot_admin : (s.withSlot i f).admin = s.admin := (rfl)
@[simp] theorem withSlot_link : (s.withSlot i f).link = s.link := (rfl)
@[simp] theorem withSlot_draws : (s.withSlot i f).draws = s.draws := (rfl)
@[simp] theorem withSlot_pending : (s.withSlot i f).pending = s.pending := (rfl)
@[simp] theorem withSlot_window (k : WNum) : (s.withSlot i f).window k = s.window k := (rfl)
@[simp] theorem withSlot_fence (k : FNum) : (s.withSlot i f).fence k = s.fence k := (rfl)
@[simp] theorem withSlot_part (k : PNum) : (s.withSlot i f).part k = s.part k := (rfl)
@[simp] theorem withSlot_vector (k : VNum) : (s.withSlot i f).vector k = s.vector k := (rfl)
@[simp] theorem withSlot_buffer (k : BNum) : (s.withSlot i f).buffer k = s.buffer k := (rfl)
@[simp] theorem withSlot_tag (k : TNum) : (s.withSlot i f).tag k = s.tag k := (rfl)
@[simp] theorem withSlot_assembling (k : PNum) : (s.withSlot i f).assembling k = s.assembling k := (rfl)
@[simp] theorem withSlot_running : (s.withSlot i f).running = s.running := (rfl)
@[simp] theorem withSlot_stopping : (s.withSlot i f).stopping = s.stopping := (rfl)
@[simp] theorem withSlot_halted : (s.withSlot i f).halted = s.halted := (rfl)
@[simp] theorem withSlot_active : (s.withSlot i f).active = s.active := (rfl)
end withSlot

section withVector
variable (n : VNum) (f : MsgVector → MsgVector)
@[simp] theorem withVector_device : (s.withVector n f).device = s.device := (rfl)
@[simp] theorem withVector_card : (s.withVector n f).card = s.card := (rfl)
@[simp] theorem withVector_windows : (s.withVector n f).windows = s.windows := (rfl)
@[simp] theorem withVector_fences : (s.withVector n f).fences = s.fences := (rfl)
@[simp] theorem withVector_parts : (s.withVector n f).parts = s.parts := (rfl)
@[simp] theorem withVector_sched : (s.withVector n f).sched = s.sched := (rfl)
@[simp] theorem withVector_slots : (s.withVector n f).slots = s.slots := (rfl)
@[simp] theorem withVector_pool : (s.withVector n f).pool = s.pool := (rfl)
@[simp] theorem withVector_poster : (s.withVector n f).poster = s.poster := (rfl)
@[simp] theorem withVector_vectors : (s.withVector n f).vectors = upd s.vectors n f := (rfl)
@[simp] theorem withVector_events : (s.withVector n f).events = s.events := (rfl)
@[simp] theorem withVector_admin : (s.withVector n f).admin = s.admin := (rfl)
@[simp] theorem withVector_link : (s.withVector n f).link = s.link := (rfl)
@[simp] theorem withVector_draws : (s.withVector n f).draws = s.draws := (rfl)
@[simp] theorem withVector_pending : (s.withVector n f).pending = s.pending := (rfl)
@[simp] theorem withVector_window (k : WNum) : (s.withVector n f).window k = s.window k := (rfl)
@[simp] theorem withVector_fence (k : FNum) : (s.withVector n f).fence k = s.fence k := (rfl)
@[simp] theorem withVector_part (k : PNum) : (s.withVector n f).part k = s.part k := (rfl)
@[simp] theorem withVector_slot (k : SNum) : (s.withVector n f).slot k = s.slot k := (rfl)
@[simp] theorem withVector_buffer (k : BNum) : (s.withVector n f).buffer k = s.buffer k := (rfl)
@[simp] theorem withVector_tag (k : TNum) : (s.withVector n f).tag k = s.tag k := (rfl)
@[simp] theorem withVector_assembling (k : PNum) : (s.withVector n f).assembling k = s.assembling k := (rfl)
@[simp] theorem withVector_running : (s.withVector n f).running = s.running := (rfl)
@[simp] theorem withVector_stopping : (s.withVector n f).stopping = s.stopping := (rfl)
@[simp] theorem withVector_halted : (s.withVector n f).halted = s.halted := (rfl)
@[simp] theorem withVector_active : (s.withVector n f).active = s.active := (rfl)
end withVector

section withFence
variable (n : FNum) (f : Fence → Fence)
@[simp] theorem withFence_device : (s.withFence n f).device = s.device := (rfl)
@[simp] theorem withFence_card : (s.withFence n f).card = s.card := (rfl)
@[simp] theorem withFence_windows : (s.withFence n f).windows = s.windows := (rfl)
@[simp] theorem withFence_fences : (s.withFence n f).fences = { s.fences with entries := upd s.fences.entries n f } := (rfl)
@[simp] theorem withFence_parts : (s.withFence n f).parts = s.parts := (rfl)
@[simp] theorem withFence_sched : (s.withFence n f).sched = s.sched := (rfl)
@[simp] theorem withFence_slots : (s.withFence n f).slots = s.slots := (rfl)
@[simp] theorem withFence_pool : (s.withFence n f).pool = s.pool := (rfl)
@[simp] theorem withFence_poster : (s.withFence n f).poster = s.poster := (rfl)
@[simp] theorem withFence_vectors : (s.withFence n f).vectors = s.vectors := (rfl)
@[simp] theorem withFence_events : (s.withFence n f).events = s.events := (rfl)
@[simp] theorem withFence_admin : (s.withFence n f).admin = s.admin := (rfl)
@[simp] theorem withFence_link : (s.withFence n f).link = s.link := (rfl)
@[simp] theorem withFence_draws : (s.withFence n f).draws = s.draws := (rfl)
@[simp] theorem withFence_pending : (s.withFence n f).pending = s.pending := (rfl)
@[simp] theorem withFence_window (k : WNum) : (s.withFence n f).window k = s.window k := (rfl)
@[simp] theorem withFence_part (k : PNum) : (s.withFence n f).part k = s.part k := (rfl)
@[simp] theorem withFence_slot (k : SNum) : (s.withFence n f).slot k = s.slot k := (rfl)
@[simp] theorem withFence_vector (k : VNum) : (s.withFence n f).vector k = s.vector k := (rfl)
@[simp] theorem withFence_buffer (k : BNum) : (s.withFence n f).buffer k = s.buffer k := (rfl)
@[simp] theorem withFence_tag (k : TNum) : (s.withFence n f).tag k = s.tag k := (rfl)
@[simp] theorem withFence_assembling (k : PNum) : (s.withFence n f).assembling k = s.assembling k := (rfl)
@[simp] theorem withFence_running : (s.withFence n f).running = s.running := (rfl)
@[simp] theorem withFence_stopping : (s.withFence n f).stopping = s.stopping := (rfl)
@[simp] theorem withFence_halted : (s.withFence n f).halted = s.halted := (rfl)
@[simp] theorem withFence_active : (s.withFence n f).active = s.active := (rfl)
end withFence

section withBuffer
variable (b : BNum) (f : Buffer → Buffer)
@[simp] theorem withBuffer_device : (s.withBuffer b f).device = s.device := (rfl)
@[simp] theorem withBuffer_card : (s.withBuffer b f).card = s.card := (rfl)
@[simp] theorem withBuffer_windows : (s.withBuffer b f).windows = s.windows := (rfl)
@[simp] theorem withBuffer_fences : (s.withBuffer b f).fences = s.fences := (rfl)
@[simp] theorem withBuffer_parts : (s.withBuffer b f).parts = s.parts := (rfl)
@[simp] theorem withBuffer_sched : (s.withBuffer b f).sched = s.sched := (rfl)
@[simp] theorem withBuffer_slots : (s.withBuffer b f).slots = s.slots := (rfl)
@[simp] theorem withBuffer_pool : (s.withBuffer b f).pool = { s.pool with buffers := upd s.pool.buffers b f } := (rfl)
@[simp] theorem withBuffer_poster : (s.withBuffer b f).poster = s.poster := (rfl)
@[simp] theorem withBuffer_vectors : (s.withBuffer b f).vectors = s.vectors := (rfl)
@[simp] theorem withBuffer_events : (s.withBuffer b f).events = s.events := (rfl)
@[simp] theorem withBuffer_admin : (s.withBuffer b f).admin = s.admin := (rfl)
@[simp] theorem withBuffer_link : (s.withBuffer b f).link = s.link := (rfl)
@[simp] theorem withBuffer_draws : (s.withBuffer b f).draws = s.draws := (rfl)
@[simp] theorem withBuffer_pending : (s.withBuffer b f).pending = s.pending := (rfl)
@[simp] theorem withBuffer_window (k : WNum) : (s.withBuffer b f).window k = s.window k := (rfl)
@[simp] theorem withBuffer_fence (k : FNum) : (s.withBuffer b f).fence k = s.fence k := (rfl)
@[simp] theorem withBuffer_part (k : PNum) : (s.withBuffer b f).part k = s.part k := (rfl)
@[simp] theorem withBuffer_slot (k : SNum) : (s.withBuffer b f).slot k = s.slot k := (rfl)
@[simp] theorem withBuffer_vector (k : VNum) : (s.withBuffer b f).vector k = s.vector k := (rfl)
@[simp] theorem withBuffer_tag (k : TNum) : (s.withBuffer b f).tag k = s.tag k := (rfl)
@[simp] theorem withBuffer_assembling (k : PNum) : (s.withBuffer b f).assembling k = s.assembling k := (rfl)
@[simp] theorem withBuffer_running : (s.withBuffer b f).running = s.running := (rfl)
@[simp] theorem withBuffer_stopping : (s.withBuffer b f).stopping = s.stopping := (rfl)
@[simp] theorem withBuffer_halted : (s.withBuffer b f).halted = s.halted := (rfl)
@[simp] theorem withBuffer_active : (s.withBuffer b f).active = s.active := (rfl)
end withBuffer

section withTag
variable (t : TNum) (f : TagState → TagState)
@[simp] theorem withTag_device : (s.withTag t f).device = s.device := (rfl)
@[simp] theorem withTag_card : (s.withTag t f).card = s.card := (rfl)
@[simp] theorem withTag_windows : (s.withTag t f).windows = s.windows := (rfl)
@[simp] theorem withTag_fences : (s.withTag t f).fences = s.fences := (rfl)
@[simp] theorem withTag_parts : (s.withTag t f).parts = s.parts := (rfl)
@[simp] theorem withTag_sched : (s.withTag t f).sched = s.sched := (rfl)
@[simp] theorem withTag_slots : (s.withTag t f).slots = s.slots := (rfl)
@[simp] theorem withTag_pool : (s.withTag t f).pool = s.pool := (rfl)
@[simp] theorem withTag_poster : (s.withTag t f).poster = s.poster := (rfl)
@[simp] theorem withTag_vectors : (s.withTag t f).vectors = s.vectors := (rfl)
@[simp] theorem withTag_events : (s.withTag t f).events = s.events := (rfl)
@[simp] theorem withTag_admin : (s.withTag t f).admin = s.admin := (rfl)
@[simp] theorem withTag_link : (s.withTag t f).link = { s.link with tags := upd s.link.tags t f } := (rfl)
@[simp] theorem withTag_draws : (s.withTag t f).draws = s.draws := (rfl)
@[simp] theorem withTag_pending : (s.withTag t f).pending = s.pending := (rfl)
@[simp] theorem withTag_window (k : WNum) : (s.withTag t f).window k = s.window k := (rfl)
@[simp] theorem withTag_fence (k : FNum) : (s.withTag t f).fence k = s.fence k := (rfl)
@[simp] theorem withTag_part (k : PNum) : (s.withTag t f).part k = s.part k := (rfl)
@[simp] theorem withTag_slot (k : SNum) : (s.withTag t f).slot k = s.slot k := (rfl)
@[simp] theorem withTag_vector (k : VNum) : (s.withTag t f).vector k = s.vector k := (rfl)
@[simp] theorem withTag_buffer (k : BNum) : (s.withTag t f).buffer k = s.buffer k := (rfl)
@[simp] theorem withTag_assembling (k : PNum) : (s.withTag t f).assembling k = s.assembling k := (rfl)
@[simp] theorem withTag_running : (s.withTag t f).running = s.running := (rfl)
@[simp] theorem withTag_stopping : (s.withTag t f).stopping = s.stopping := (rfl)
@[simp] theorem withTag_halted : (s.withTag t f).halted = s.halted := (rfl)
@[simp] theorem withTag_active : (s.withTag t f).active = s.active := (rfl)
end withTag

section withAssembling
variable (p : PNum) (a : Option Assembling)
@[simp] theorem withAssembling_device : (s.withAssembling p a).device = s.device := (rfl)
@[simp] theorem withAssembling_card : (s.withAssembling p a).card = s.card := (rfl)
@[simp] theorem withAssembling_windows : (s.withAssembling p a).windows = s.windows := (rfl)
@[simp] theorem withAssembling_fences : (s.withAssembling p a).fences = s.fences := (rfl)
@[simp] theorem withAssembling_parts : (s.withAssembling p a).parts = s.parts := (rfl)
@[simp] theorem withAssembling_sched : (s.withAssembling p a).sched = { s.sched with assembling := upd s.sched.assembling p fun _ => a } := (rfl)
@[simp] theorem withAssembling_slots : (s.withAssembling p a).slots = s.slots := (rfl)
@[simp] theorem withAssembling_pool : (s.withAssembling p a).pool = s.pool := (rfl)
@[simp] theorem withAssembling_poster : (s.withAssembling p a).poster = s.poster := (rfl)
@[simp] theorem withAssembling_vectors : (s.withAssembling p a).vectors = s.vectors := (rfl)
@[simp] theorem withAssembling_events : (s.withAssembling p a).events = s.events := (rfl)
@[simp] theorem withAssembling_admin : (s.withAssembling p a).admin = s.admin := (rfl)
@[simp] theorem withAssembling_link : (s.withAssembling p a).link = s.link := (rfl)
@[simp] theorem withAssembling_draws : (s.withAssembling p a).draws = s.draws := (rfl)
@[simp] theorem withAssembling_pending : (s.withAssembling p a).pending = s.pending := (rfl)
@[simp] theorem withAssembling_window (k : WNum) : (s.withAssembling p a).window k = s.window k := (rfl)
@[simp] theorem withAssembling_fence (k : FNum) : (s.withAssembling p a).fence k = s.fence k := (rfl)
@[simp] theorem withAssembling_part (k : PNum) : (s.withAssembling p a).part k = s.part k := (rfl)
@[simp] theorem withAssembling_slot (k : SNum) : (s.withAssembling p a).slot k = s.slot k := (rfl)
@[simp] theorem withAssembling_vector (k : VNum) : (s.withAssembling p a).vector k = s.vector k := (rfl)
@[simp] theorem withAssembling_buffer (k : BNum) : (s.withAssembling p a).buffer k = s.buffer k := (rfl)
@[simp] theorem withAssembling_tag (k : TNum) : (s.withAssembling p a).tag k = s.tag k := (rfl)
@[simp] theorem withAssembling_running : (s.withAssembling p a).running = s.running := (rfl)
@[simp] theorem withAssembling_stopping : (s.withAssembling p a).stopping = s.stopping := (rfl)
@[simp] theorem withAssembling_halted : (s.withAssembling p a).halted = s.halted := (rfl)
@[simp] theorem withAssembling_active : (s.withAssembling p a).active = s.active := (rfl)
end withAssembling

section withPending
variable (q : List Instr)
@[simp] theorem withPending_device : (s.withPending q).device = s.device := (rfl)
@[simp] theorem withPending_card : (s.withPending q).card = s.card := (rfl)
@[simp] theorem withPending_windows : (s.withPending q).windows = s.windows := (rfl)
@[simp] theorem withPending_fences : (s.withPending q).fences = s.fences := (rfl)
@[simp] theorem withPending_parts : (s.withPending q).parts = s.parts := (rfl)
@[simp] theorem withPending_sched : (s.withPending q).sched = s.sched := (rfl)
@[simp] theorem withPending_slots : (s.withPending q).slots = s.slots := (rfl)
@[simp] theorem withPending_pool : (s.withPending q).pool = s.pool := (rfl)
@[simp] theorem withPending_poster : (s.withPending q).poster = s.poster := (rfl)
@[simp] theorem withPending_vectors : (s.withPending q).vectors = s.vectors := (rfl)
@[simp] theorem withPending_events : (s.withPending q).events = s.events := (rfl)
@[simp] theorem withPending_admin : (s.withPending q).admin = s.admin := (rfl)
@[simp] theorem withPending_link : (s.withPending q).link = s.link := (rfl)
@[simp] theorem withPending_draws : (s.withPending q).draws = s.draws := (rfl)
@[simp] theorem withPending_pending : (s.withPending q).pending = q := (rfl)
@[simp] theorem withPending_window (k : WNum) : (s.withPending q).window k = s.window k := (rfl)
@[simp] theorem withPending_fence (k : FNum) : (s.withPending q).fence k = s.fence k := (rfl)
@[simp] theorem withPending_part (k : PNum) : (s.withPending q).part k = s.part k := (rfl)
@[simp] theorem withPending_slot (k : SNum) : (s.withPending q).slot k = s.slot k := (rfl)
@[simp] theorem withPending_vector (k : VNum) : (s.withPending q).vector k = s.vector k := (rfl)
@[simp] theorem withPending_buffer (k : BNum) : (s.withPending q).buffer k = s.buffer k := (rfl)
@[simp] theorem withPending_tag (k : TNum) : (s.withPending q).tag k = s.tag k := (rfl)
@[simp] theorem withPending_assembling (k : PNum) : (s.withPending q).assembling k = s.assembling k := (rfl)
@[simp] theorem withPending_running : (s.withPending q).running = s.running := (rfl)
@[simp] theorem withPending_stopping : (s.withPending q).stopping = s.stopping := (rfl)
@[simp] theorem withPending_halted : (s.withPending q).halted = s.halted := (rfl)
@[simp] theorem withPending_active : (s.withPending q).active = s.active := (rfl)
end withPending

/-! ### The entry that an update changes -/

@[simp] theorem withWindow_window_same (k : WNum) (f : Window → Window) : (s.withWindow k f).window k = f (s.window k) := look_upd_same _ _ _
theorem withWindow_window_ne (k j : WNum) (f : Window → Window) (h : j ≠ k) : (s.withWindow k f).window j = s.window j := look_upd_ne _ _ _ _ h
theorem withWindow_window (k j : WNum) (f : Window → Window) :
    (s.withWindow k f).window j = if j = k then f (s.window k) else s.window j := look_upd _ _ _ _
@[simp] theorem withFence_fence_same (k : FNum) (f : Fence → Fence) : (s.withFence k f).fence k = f (s.fence k) := look_upd_same _ _ _
theorem withFence_fence_ne (k j : FNum) (f : Fence → Fence) (h : j ≠ k) : (s.withFence k f).fence j = s.fence j := look_upd_ne _ _ _ _ h
theorem withFence_fence (k j : FNum) (f : Fence → Fence) :
    (s.withFence k f).fence j = if j = k then f (s.fence k) else s.fence j := look_upd _ _ _ _
@[simp] theorem withPart_part_same (k : PNum) (f : Partition → Partition) : (s.withPart k f).part k = f (s.part k) := look_upd_same _ _ _
theorem withPart_part_ne (k j : PNum) (f : Partition → Partition) (h : j ≠ k) : (s.withPart k f).part j = s.part j := look_upd_ne _ _ _ _ h
theorem withPart_part (k j : PNum) (f : Partition → Partition) :
    (s.withPart k f).part j = if j = k then f (s.part k) else s.part j := look_upd _ _ _ _
@[simp] theorem withSlot_slot_same (k : SNum) (f : Slot → Slot) : (s.withSlot k f).slot k = f (s.slot k) := look_upd_same _ _ _
theorem withSlot_slot_ne (k j : SNum) (f : Slot → Slot) (h : j ≠ k) : (s.withSlot k f).slot j = s.slot j := look_upd_ne _ _ _ _ h
theorem withSlot_slot (k j : SNum) (f : Slot → Slot) :
    (s.withSlot k f).slot j = if j = k then f (s.slot k) else s.slot j := look_upd _ _ _ _
@[simp] theorem withVector_vector_same (k : VNum) (f : MsgVector → MsgVector) : (s.withVector k f).vector k = f (s.vector k) := look_upd_same _ _ _
theorem withVector_vector_ne (k j : VNum) (f : MsgVector → MsgVector) (h : j ≠ k) : (s.withVector k f).vector j = s.vector j := look_upd_ne _ _ _ _ h
theorem withVector_vector (k j : VNum) (f : MsgVector → MsgVector) :
    (s.withVector k f).vector j = if j = k then f (s.vector k) else s.vector j := look_upd _ _ _ _
@[simp] theorem withBuffer_buffer_same (k : BNum) (f : Buffer → Buffer) : (s.withBuffer k f).buffer k = f (s.buffer k) := look_upd_same _ _ _
theorem withBuffer_buffer_ne (k j : BNum) (f : Buffer → Buffer) (h : j ≠ k) : (s.withBuffer k f).buffer j = s.buffer j := look_upd_ne _ _ _ _ h
theorem withBuffer_buffer (k j : BNum) (f : Buffer → Buffer) :
    (s.withBuffer k f).buffer j = if j = k then f (s.buffer k) else s.buffer j := look_upd _ _ _ _
@[simp] theorem withTag_tag_same (k : TNum) (f : TagState → TagState) : (s.withTag k f).tag k = f (s.tag k) := look_upd_same _ _ _
theorem withTag_tag_ne (k j : TNum) (f : TagState → TagState) (h : j ≠ k) : (s.withTag k f).tag j = s.tag j := look_upd_ne _ _ _ _ h
theorem withTag_tag (k j : TNum) (f : TagState → TagState) :
    (s.withTag k f).tag j = if j = k then f (s.tag k) else s.tag j := look_upd _ _ _ _
@[simp] theorem withAssembling_assembling_same (k : PNum) (x : Option Assembling) : (s.withAssembling k x).assembling k = x := look_upd_same _ _ _
theorem withAssembling_assembling_ne (k j : PNum) (x : Option Assembling) (h : j ≠ k) : (s.withAssembling k x).assembling j = s.assembling j := look_upd_ne _ _ _ _ h

end Sys2Proof.Machine.Laws
end

