-- ==== Sys2Proof/Laws/Outer.lean ====
section
/-! SUPPORT. The operations that touch neither the device state, nor card memory, nor the window table, nor the fence
list, nor the queue of commands, nor the host read timeout: one lemma for each. -/

namespace Sys2Proof.Machine.Laws

/-- What few operations touch: device, card, windows, fences, the queue and the host read timeout. -/
def outer (s : State) : Device × Card × Vector Window 64 × FenceUnit × List Instr × Nat :=
  (s.device, s.card, s.windows, s.fences, s.pending, s.link.timeout)

section
variable (s : State)

@[simp] theorem outer_withSched (f : Scheduler → Scheduler) : outer (s.withSched f) = outer s := (rfl)
@[simp] theorem outer_withPool (f : Pool → Pool) : outer (s.withPool f) = outer s := (rfl)
@[simp] theorem outer_withPoster (f : Poster → Poster) : outer (s.withPoster f) = outer s := (rfl)
@[simp] theorem outer_withEvents (f : EventRing → EventRing) : outer (s.withEvents f) = outer s := (rfl)
@[simp] theorem outer_withAdmin (f : Admin → Admin) : outer (s.withAdmin f) = outer s := (rfl)
@[simp] theorem outer_withLink (f : Link → Link) (h : (f s.link).timeout = s.link.timeout) : outer (s.withLink f) = outer s := by
  simp only [outer, withLink_device, withLink_card, withLink_windows, withLink_fences, withLink_pending, withLink_link, h]
@[simp] theorem outer_withPart (p : PNum) (f : Partition → Partition) : outer (s.withPart p f) = outer s := (rfl)
@[simp] theorem outer_withSlot (i : SNum) (f : Slot → Slot) : outer (s.withSlot i f) = outer s := (rfl)
@[simp] theorem outer_withVector (n : VNum) (f : MsgVector → MsgVector) : outer (s.withVector n f) = outer s := (rfl)
@[simp] theorem outer_withBuffer (b : BNum) (f : Buffer → Buffer) : outer (s.withBuffer b f) = outer s := (rfl)
@[simp] theorem outer_withTag (t : TNum) (f : TagState → TagState) : outer (s.withTag t f) = outer s := (rfl)
@[simp] theorem outer_withAssembling (p : PNum) (a : Option Assembling) : outer (s.withAssembling p a) = outer s := (rfl)
@[simp] theorem outer_drawn : outer s.drawn = outer s := (rfl)
@[simp] theorem outer_postWrite (w : PostedWrite) : outer (s.postWrite w) = outer s := (rfl)

@[simp] theorem outer_react (n : VNum) (r : Reaction) : outer (s.react n r) = outer s := by
  unfold State.react; dsimp only; split <;> simp

@[simp] theorem outer_newRecord (n : VNum) (u : Bool) : outer (s.newRecord n u) = outer s := outer_react ..
@[simp] theorem outer_consumeWrite (n : VNum) : outer (s.consumeWrite n) = outer s := outer_react ..

@[simp] theorem outer_writeEvent (e : Event) : outer (s.writeEvent e) = outer s := by simp [State.writeEvent]

@[simp] theorem outer_handOver (e : Event) : outer (s.handOver e) = outer s := by
  unfold State.handOver; split <;> simp

@[simp] theorem outer_writeLost : outer s.writeLost = outer s := by simp [State.writeLost]

@[simp] theorem outer_setEventRing (n : Nat) (b : HostAddr) : outer (s.setEventRing n b) = outer s := by
  unfold State.setEventRing; dsimp only; split <;> simp

@[simp] theorem outer_adminComplete (o : Nat) (t : Tag) (a : AdminStatus) (d : Nat) :
    outer (s.adminComplete o t a d) = outer s := by simp [State.adminComplete]

@[simp] theorem outer_setDeferred (i : Fin 8) (d : Option Deferred) : outer (s.setDeferred i d) = outer s := (rfl)
@[simp] theorem outer_takeDeferred (i : Fin 8) (o : DeferOp) (t : Tag) (n : Nat) :
    outer (s.takeDeferred i o t n) = outer s := (rfl)

@[simp] theorem outer_reportDeferred (o : DeferOp) (n : Nat) (a : AdminStatus) :
    outer (s.reportDeferred o n a) = outer s := by
  unfold State.reportDeferred; dsimp only
  split
  · rfl
  · split
    · rfl
    · split
      · rfl
      · split <;> simp

@[simp] theorem outer_discardAnswers : outer s.discardAnswers = outer s := (rfl)

@[simp] theorem outer_postGroup (i : SNum) (v : Verdict) : outer (s.postGroup i v) = outer s := by
  unfold State.postGroup; dsimp only; split <;> simp

@[simp] theorem outer_askRead (r : Requester) (a : HostAddr) (n : Nat) : outer (s.askRead r a n) = outer s := (rfl)
@[simp] theorem outer_withdrawReads (i : SNum) : outer (s.withdrawReads i) = outer s := (rfl)
@[simp] theorem outer_orphanReads (i : SNum) : outer (s.orphanReads i) = outer s := (rfl)
@[simp] theorem outer_issueRead (q : ReadRequest) (r : List ReadRequest) (t : TNum) : outer (s.issueRead q r t) = outer s := (rfl)

@[simp] theorem outer_elapse (n : Nat) : outer (s.elapse n) = outer s := by
  unfold State.elapse; dsimp only; split <;> rfl

@[simp] theorem outer_grantBuffer (b : BNum) (i : SNum) (p : PNum) : outer (s.grantBuffer b i p) = outer s := (rfl)
@[simp] theorem outer_freeUp (b : BNum) (p : PNum) : outer (s.freeUp b p) = outer s := (rfl)
@[simp] theorem outer_leaveWaiting (i : SNum) : outer (s.leaveWaiting i) = outer s := (rfl)
@[simp] theorem outer_arbiterGrant (b : BNum) (p : PNum) (i : SNum) : outer (s.arbiterGrant b p i) = outer s := (rfl)

@[simp] theorem outer_releaseBuffer (b : BNum) (p : PNum) : outer (s.releaseBuffer b p).1 = outer s := by
  unfold State.releaseBuffer; dsimp only; split <;> simp

@[simp] theorem outer_arbiterPass (n : Nat) : outer (State.arbiterPass n s).1 = outer s := by
  induction n generalizing s with
  | zero => rfl
  | succ n ih =>
    unfold State.arbiterPass
    split
    · simp [ih]
    · rfl

@[simp] theorem outer_evalWatermark : outer s.evalWatermark = outer s := by
  unfold State.evalWatermark; dsimp only; split <;> simp

@[simp] theorem outer_reevaluate (n : Nat) : outer (s.reevaluate n) = outer s := by
  unfold State.reevaluate; split <;> simp

@[simp] theorem outer_waitForBuffer (i : SNum) (p : PNum) : outer (s.waitForBuffer i p) = outer s := (rfl)

theorem outer_requestAbort (d : AbortDetail) (l : List SNum) : outer (s.requestAbort d l) = outer s := by
  induction l generalizing s with
  | nil => rfl
  | cons i l ih => simp [State.requestAbort, ih]

@[simp] theorem outer_abortRound (d : AbortDetail) (l : List SNum) : outer (s.abortRound d l).1 = outer s := by
  simp [State.abortRound, outer_requestAbort]

@[simp] theorem outer_takeFault (p : PNum) (c : FaultCause) : outer (s.takeFault p c).1 = outer s := by
  unfold State.takeFault; split <;> simp

@[simp] theorem outer_reportFault (p : PNum) (c : FaultCause) : outer (s.reportFault p c) = outer s := by
  simp [State.reportFault]

@[simp] theorem outer_endClosing (p : PNum) : outer (s.endClosing p).1 = outer s := by simp [State.endClosing]

@[simp] theorem outer_answerClose (p : PNum) : outer (s.answerClose p) = outer s := by
  unfold State.answerClose; dsimp only
  split
  · rfl
  · simp only [outer_reportDeferred]; split <;> split <;> simp

@[simp] theorem outer_barrierRelease (p : PNum) : outer (s.barrierRelease p).1 = outer s := by
  unfold State.barrierRelease; dsimp only
  split
  · split <;> simp
  · rfl

@[simp] theorem outer_completionIssued (i : SNum) : outer (s.completionIssued i).1 = outer s := (rfl)

@[simp] theorem outer_freeSlot (i : SNum) : outer (s.freeSlot i).1 = outer s := by
  unfold State.freeSlot; dsimp only; split_ifs <;> simp

@[simp] theorem outer_tryRelease (i : SNum) : outer (s.tryRelease i).1 = outer s := by
  unfold State.tryRelease; dsimp only; split_ifs <;> simp

@[simp] theorem outer_returnSlot (i : SNum) : outer (s.returnSlot i).1 = outer s := by simp [State.returnSlot]

@[simp] theorem outer_afterEnd (i : SNum) : outer (s.afterEnd i).1 = outer s := by
  unfold State.afterEnd; dsimp only
  split
  · rfl
  · split_ifs <;> rfl

@[simp] theorem outer_cutMember (i : SNum) : outer (s.cutMember i).1 = outer s := by simp [State.cutMember]

@[simp] theorem outer_failMember (i : SNum) (a : Status) (d : Nat) : outer (s.failMember i a d).1 = outer s := by
  unfold State.failMember; dsimp only; split <;> simp

@[simp] theorem outer_takeAbort (i : SNum) (d : AbortDetail) : outer (s.takeAbort i d).1 = outer s := by
  unfold State.takeAbort; dsimp only
  split <;> first | rfl | (split_ifs <;> simp)

@[simp] theorem outer_endChunk (i : SNum) (k : Nat) (b : Bool) : outer (s.endChunk i k b).1 = outer s := by
  unfold State.endChunk; dsimp only
  split
  · rfl
  · split_ifs <;> simp

@[simp] theorem outer_handOverChunk (i : SNum) (r : SubRecord) (c : ChunkCtx) : outer (s.handOverChunk i r c).1 = outer s := by
  simp [State.handOverChunk]

@[simp] theorem outer_enterCrc (i : SNum) (m : MemberCtx) (c : ChunkCtx) : outer (s.enterCrc i m c).1 = outer s := by
  simp [State.enterCrc]

end

end Sys2Proof.Machine.Laws
end

