-- ==== Sys2Proof/Laws/Steady.lean ====
section
/-! SUPPORT. What the inner events of a step never change: the strap and the admin ring registers, card memory and its
marks, the record of a window that is not FREE, a LOCKED window, the range of a fence in force, the fence lock, HALTED, the
host read timeout and the queue. `settle_steady` is the one fact the provers need. -/

namespace Sys2Proof.Machine.Laws

/-- What may happen to a window while no WINDOW_OPEN, WINDOW_LOCK or reset acts on it. -/
structure WindowKept (a b : Window) : Prop where
  locked : a.st = .locked → b.st = .locked
  record : b.st ≠ .free → a.st ≠ .free ∧ b.owner = a.owner ∧ b.cardBase = a.cardBase ∧ b.length = a.length ∧ b.access = a.access
  parity : b.parityOk = a.parityOk

theorem WindowKept.refl (a : Window) : WindowKept a a := ⟨id, fun h => ⟨h, rfl, rfl, rfl, rfl⟩, rfl⟩

theorem WindowKept.trans {a b c : Window} (h : WindowKept a b) (k : WindowKept b c) : WindowKept a c where
  locked e := k.locked (h.locked e)
  record e := by
    obtain ⟨e1, x1, x2, x3, x4⟩ := k.record e
    obtain ⟨e2, y1, y2, y3, y4⟩ := h.record e1
    exact ⟨e2, x1.trans y1, x2.trans y2, x3.trans y3, x4.trans y4⟩
  parity := k.parity.trans h.parity

/-- What may happen to a fence while no FENCE_SET, FENCE_CLEAR or reset acts on it. -/
structure FenceKept (a b : Fence) : Prop where
  empty : b.st = .empty ↔ a.st = .empty
  active : a.st = .active → b.st = .active
  base : b.cardBase = a.cardBase
  length : b.length = a.length

theorem FenceKept.refl (a : Fence) : FenceKept a a := ⟨Iff.rfl, id, rfl, rfl⟩

theorem FenceKept.trans {a b c : Fence} (h : FenceKept a b) (k : FenceKept b c) : FenceKept a c :=
  ⟨k.empty.trans h.empty, k.active ∘ h.active, k.base.trans h.base, k.length.trans h.length⟩

/-- What an inner event leaves. -/
structure Steady (s t : State) : Prop where
  strap : t.device.strap = s.device.strap
  sqBase : t.device.adminSqBase = s.device.adminSqBase
  cqBase : t.device.adminCqBase = s.device.adminCqBase
  sizes : t.device.adminSizes = s.device.adminSizes
  configError : t.device.configError = s.device.configError
  notifyRejected : t.device.notifyRejected = s.device.notifyRejected
  readData : t.device.readData = s.device.readData
  st : t.device.st = s.device.st ∨ (s.device.st ≠ .halted ∧ t.device.st = .halted)
  mem : t.card.mem = s.card.mem
  marks : t.card.marks = s.card.marks
  scrub : t.card.scrub = s.card.scrub
  windows : ∀ w, WindowKept (s.window w) (t.window w)
  fences : ∀ f, FenceKept (s.fence f) (t.fence f)
  locked : t.fences.locked = s.fences.locked
  pending : t.pending = s.pending
  timeout : t.link.timeout = s.link.timeout

theorem Steady.refl (s : State) : Steady s s where
  strap := rfl
  sqBase := rfl
  cqBase := rfl
  sizes := rfl
  configError := rfl
  notifyRejected := rfl
  readData := rfl
  st := .inl rfl
  mem := rfl
  marks := rfl
  scrub := rfl
  windows _ := .refl _
  fences _ := .refl _
  locked := rfl
  pending := rfl
  timeout := rfl

theorem Steady.trans {s t u : State} (h : Steady s t) (k : Steady t u) : Steady s u where
  strap := k.strap.trans h.strap
  sqBase := k.sqBase.trans h.sqBase
  cqBase := k.cqBase.trans h.cqBase
  sizes := k.sizes.trans h.sizes
  configError := k.configError.trans h.configError
  notifyRejected := k.notifyRejected.trans h.notifyRejected
  readData := k.readData.trans h.readData
  st := by
    rcases k.st with e | ⟨n, e⟩ <;> rcases h.st with e' | ⟨n', e'⟩
    · exact .inl (e.trans e')
    · exact .inr ⟨n', e.trans e'⟩
    · exact .inr ⟨e' ▸ n, e⟩
    · exact absurd e' n
  mem := k.mem.trans h.mem
  marks := k.marks.trans h.marks
  scrub := k.scrub.trans h.scrub
  windows w := (h.windows w).trans (k.windows w)
  fences f := (h.fences f).trans (k.fences f)
  locked := k.locked.trans h.locked
  pending := k.pending.trans h.pending
  timeout := k.timeout.trans h.timeout

/-- An operation that leaves the outer blocks as they are is steady. -/
theorem Steady.of_outer {s t : State} (h : outer t = outer s) : Steady s t := by
  simp only [outer, Prod.mk.injEq] at h
  obtain ⟨hd, hc, hw, hf, hp, ht⟩ := h
  refine ⟨by rw [hd], by rw [hd], by rw [hd], by rw [hd], by rw [hd], by rw [hd], by rw [hd], .inl (by rw [hd]), by rw [hc],
    by rw [hc], by rw [hc], fun w => ?_, fun f => ?_, by rw [hf], hp, ht⟩
  · simp only [State.window, hw]; exact .refl _
  · simp only [State.fence, hf]; exact .refl _

/-- A change of one window that keeps it steady. -/
theorem steady_withWindow (s : State) (w : WNum) (f : Window → Window) (h : WindowKept (s.window w) (f (s.window w))) :
    Steady s (s.withWindow w f) :=
  { Steady.refl s with
    windows := fun v => by
      by_cases e : v = w
      · subst e; simpa using h
      · rw [withWindow_window_ne _ _ _ _ e]; exact .refl _
    fences := fun _ => .refl _
    st := .inl rfl }

/-- A change of one fence that keeps it steady. -/
theorem steady_withFence (s : State) (n : FNum) (f : Fence → Fence) (h : FenceKept (s.fence n) (f (s.fence n))) :
    Steady s (s.withFence n f) :=
  { Steady.refl s with
    windows := fun _ => .refl _
    fences := fun v => by
      by_cases e : v = n
      · subst e; simpa using h
      · rw [withFence_fence_ne _ _ _ _ e]; exact .refl _
    st := .inl rfl }

/-- A change of the access records. -/
theorem steady_withRecords (s : State) (f : FenceUnit → List AccessRecord) :
    Steady s (s.withFences fun u => { u with records := f u }) :=
  { Steady.refl s with windows := fun _ => .refl _, fences := fun _ => .refl _, st := .inl rfl }

/-- A change of the card accesses in progress. -/
theorem steady_withOps (s : State) (f : Card → Card) (hm : (f s.card).mem = s.card.mem) (hk : (f s.card).marks = s.card.marks)
    (hs : (f s.card).scrub = s.card.scrub) : Steady s (s.withCard f) :=
  { Steady.refl s with
    windows := fun _ => .refl _, fences := fun _ => .refl _, st := .inl rfl, mem := hm, marks := hk, scrub := hs }

theorem steady_enterHalted (s : State) (c : HaltCause) (h : s.device.st ≠ .halted) : Steady s (s.enterHalted c) :=
  { Steady.refl s with windows := fun _ => .refl _, fences := fun _ => .refl _, st := .inr ⟨h, rfl⟩ }

/-! ### Windows -/

theorem steady_takeRefs (s : State) (l : List WNum) : Steady s (s.takeRefs l) := by
  induction l generalizing s with
  | nil => exact .refl s
  | cons w l ih =>
    exact (steady_withWindow s w _ ⟨id, fun h => ⟨h, rfl, rfl, rfl, rfl⟩, rfl⟩).trans (ih _)

theorem WindowKept.ofFreed {a : Window} (h : a.st ≠ .locked) : WindowKept a a.freed :=
  ⟨fun e => absurd e h, fun e => absurd rfl e, rfl⟩

theorem steady_dropRef (s : State) (w : WNum) : Steady s (s.dropRef w) := by
  unfold State.dropRef
  dsimp only
  have h0 : Steady s (s.withWindow w fun x => { x with refs := x.refs - 1 }) :=
    steady_withWindow s w _ ⟨id, fun h => ⟨h, rfl, rfl, rfl, rfl⟩, rfl⟩
  split
  · rename_i hr
    have h1 := h0.trans (steady_withWindow _ w Window.freed (WindowKept.ofFreed (by rw [hr.1]; decide)))
    split
    · exact h1.trans (.of_outer (by simp))
    · exact h1
  · exact h0

theorem steady_dropRefs (s : State) (l : List WNum) : Steady s (s.dropRefs l) := by
  induction l generalizing s with
  | nil => exact .refl s
  | cons w l ih => exact (steady_dropRef s w).trans (ih _)

theorem WindowKept.ofOwnerClosed (a : Window) : WindowKept a a.ownerClosed := by
  unfold Window.ownerClosed
  split
  · rename_i h
    split
    · exact .ofFreed (by rw [h]; decide)
    · exact ⟨fun e => (by rw [h] at e; cases e), fun _ => ⟨by rw [h]; decide, rfl, rfl, rfl, rfl⟩, rfl⟩
  · exact .refl a

theorem steady_closeWindows (s : State) (p : PNum) : Steady s (s.closeWindows p) :=
  { Steady.refl s with
    windows := fun w => by
      simp only [State.closeWindows, State.window, look_mapTab]
      split
      · exact .ofOwnerClosed _
      · exact .refl _
    fences := fun _ => .refl _
    st := .inl rfl }

/-! ### Fences and card accesses -/

theorem steady_issueAccess (s : State) (i : SNum) (k base len : Nat) (w : Option (List Byte)) :
    Steady s (s.issueAccess i k base len w) :=
  (steady_withOps s (fun c => c.begin (i, k) base len w) rfl rfl rfl).trans
    (steady_withRecords _ fun u => u.records ++ [⟨s.card.nextOp, i, k, base, len, []⟩])

theorem steady_countDownFence (s : State) (f : FNum) : Steady s (s.countDownFence f) := by
  unfold State.countDownFence
  dsimp only
  split
  · rename_i hs
    split
    · split
      · have h : Steady s (s.withFence f fun x => { x with st := .active, outstanding := none, setTag := none }) :=
          steady_withFence s f _ ⟨by simp [hs], fun e => (by simp [hs] at e), rfl, rfl⟩
        split
        · exact h.trans (.of_outer (by simp))
        · exact h
      · exact steady_withFence s f _ ⟨Iff.rfl, id, rfl, rfl⟩
    · exact .refl s
  · exact .refl s

theorem steady_countDownFences (s : State) (l : List FNum) : Steady s (s.countDownFences l) := by
  induction l generalizing s with
  | nil => exact .refl s
  | cons f l ih => exact (steady_countDownFence s f).trans (ih _)

theorem steady_endRecord (s : State) (id : Nat) : Steady s (s.endRecord id) := by
  unfold State.endRecord
  split
  · exact .refl s
  · exact (steady_withRecords s _).trans (steady_countDownFences _ _)

/-! ### Inner events -/

theorem steady_presentAccess {s t : State} {i : SNum} {k base len : Nat} {w : Option (List Byte)}
    (h : s.presentAccess i k base len w = .ok t) : Steady s t := by
  unfold State.presentAccess at h
  split at h
  · cases h
  · cases h; exact steady_issueAccess ..

theorem steady_startChunk (s : State) (i : SNum) (c : MemberCtx) (r : SubRecord) (op : Op) (b : Option BNum) :
    Steady s (s.startChunk i c r op b).1 := by
  have access : ∀ (range : Option CardRange) (phase : Phase) (w : Option (List Byte)) (f : Slot → Slot) (g : Slot → Slot)
      (l : FNum → List Work) (l' : List Work),
      Steady s (match range with
        | none => ((s, []) : Inner)
        | some range =>
          match s.presentAccess i c.next (range.at c.next) (chunkLen r.length.toNat c.next) w with
          | .error e => (s.withSlot i f, l e)
          | .ok s => (s.withSlot i g, l')).1 := by
    intro range phase w f g l l'
    split
    · exact .refl s
    · split
      · exact .of_outer rfl
      · rename_i h; exact (steady_presentAccess h).trans (.of_outer rfl)
  unfold State.startChunk
  cases op
  · exact .refl s
  · exact .of_outer (by simp)
  · exact access _ .reading none _ _ _ _
  · exact access _ .reading none _ _ _ _
  · exact access _ .writing _ _ _ _ _
  · exact access _ .reading none _ _ _ _

theorem steady_startChunks (s : State) (i : SNum) : Steady s (s.startChunks i).1 := by
  unfold State.startChunks
  dsimp only
  split
  · split
    · split
      · split
        · split
          · exact (Steady.of_outer (outer_grantBuffer ..)).trans (steady_startChunk ..)
          · exact .refl s
        · split
          · exact .of_outer rfl
          · exact .refl s
      · exact steady_startChunk ..
    · exact .refl s
  · exact .refl s

theorem steady_takeGrant (s : State) (i : SNum) (b : BNum) : Steady s (s.takeGrant i b).1 := by
  unfold State.takeGrant
  dsimp only
  split
  · split
    · exact (Steady.of_outer (outer_withSlot s i fun x => { x with st := .running })).trans (steady_startChunk ..)
    · exact .refl s
  · exact .refl s

theorem steady_writeChunk (s : State) (i : SNum) (m : MemberCtx) (c : ChunkCtx) : Steady s (s.writeChunk i m c).1 := by
  unfold State.writeChunk
  dsimp only
  split
  · exact .refl s
  · split
    · exact .refl s
    · rename_i h; exact (steady_presentAccess h).trans (.of_outer rfl)

theorem steady_takeTurn (s : State) (i : SNum) : Steady s (s.takeTurn i).1 := by
  unfold State.takeTurn
  dsimp only
  split
  · split
    · split
      · exact steady_writeChunk ..
      · exact steady_writeChunk ..
      · exact .of_outer (by simp)
      · split
        · exact .refl s
        · split
          · exact .of_outer (by simp)
          · exact .of_outer rfl
      · exact .refl s
      · exact .refl s
    · exact .refl s
  · exact .refl s

theorem steady_startMember (s : State) (i : SNum) : Steady s (s.startMember i).1 := by
  unfold State.startMember
  dsimp only
  split
  · exact .refl s
  · split
    · split
      · exact .refl s
      · exact (steady_takeRefs s _).trans (.of_outer rfl)
    · exact .refl s

/-- The references of the slot's member. -/
def refsOf (s : State) (i : SNum) : List WNum :=
  match (s.slot i).ctx with
  | some c => c.refs
  | none => []

theorem outer_endMember (s : State) (i : SNum) : outer (s.endMember i).1 = outer (s.dropRefs (refsOf s i)) := by
  unfold State.endMember refsOf
  dsimp only
  cases (s.slot i).ctx <;> dsimp only <;> split <;> first | (split_ifs <;> simp) | simp

theorem steady_endMember (s : State) (i : SNum) : Steady s (s.endMember i).1 :=
  (steady_dropRefs s (refsOf s i)).trans (.of_outer (outer_endMember s i))

theorem steady_doWork (s : State) (w : Work) : Steady s (s.doWork w).1 := by
  cases w with
  | startMember i => exact steady_startMember s i
  | startChunks i => exact steady_startChunks s i
  | turn i => exact steady_takeTurn s i
  | grant i b => exact steady_takeGrant s i b
  | endMember i => exact steady_endMember s i
  | _ => exact .of_outer (by simp [State.doWork])

theorem steady_workStep (s : State) (w : Work) : Steady s (s.workStep w).1 := by
  unfold State.workStep
  split
  · exact .refl s
  · rename_i h
    dsimp only
    split
    · exact steady_enterHalted s _ (by simpa [State.halted] using h)
    · exact steady_doWork s w

/-- The inner events of a step are steady, however many there are. -/
theorem settle_steady (n : Nat) (s : State) (ws : List Work) : Steady s (State.settle n s ws) := by
  induction n generalizing s ws with
  | zero => exact .refl s
  | succ n ih =>
    cases ws with
    | nil => exact .refl s
    | cons w ws => exact (steady_workStep s w).trans (ih _ _)

end Sys2Proof.Machine.Laws
end

