-- ==== Sys2Proof/Laws/Flow.lean ====
section
/-! SUPPORT. How a step flows: inner events that are absent, a watermark with nothing to re-evaluate, a stop that has not
come to its end, a command read that returns live, and what shared free depends on. -/

namespace Sys2Proof.Machine.Laws

/-! ### Inner events -/

@[simp] theorem settle_nil (n : Nat) (s : State) : State.settle n s [] = s := by cases n <;> rfl

theorem settle_cons (n : Nat) (s : State) (w : Work) (rest : List Work) :
    State.settle (n + 1) s (w :: rest) = State.settle n (s.workStep w).1 ((s.workStep w).2 ++ rest) := (rfl)

/-- Outside HALTED an inner event whose table reads are good is carried out. -/
theorem workStep_good (s : State) (w : Work) (h : s.halted = false)
    (hp : s.parityError (s.readsOf w).1 (s.readsOf w).2.1 (s.readsOf w).2.2 = none) : s.workStep w = s.doWork w := by
  simp [State.workStep, h, hp]

/-- No table entry is bad, so no read of the tables finds a parity error. -/
theorem parityError_good (s : State) (l : List SNum) (m : List WNum) (k : List PNum)
    (h1 : ∀ i ∈ l, (s.slot i).parityOk = true) (h2 : ∀ w ∈ m, (s.window w).parityOk = true)
    (h3 : ∀ p ∈ k, (s.part p).parityOk = true) : s.parityError l m k = none := by
  have a : (l.any fun i => !(s.slot i).parityOk) = false := by simpa using h1
  have b : (m.any fun w => !(s.window w).parityOk) = false := by simpa using h2
  have c : (k.any fun p => !(s.part p).parityOk) = false := by simpa using h3
  simp [State.parityError, a, b, c]

/-! ### The end of a step -/

@[simp] theorem endStop_of_not_stopping (s : State) (h : s.stopping = false) : s.endStop = s := by
  simp [State.endStop, h]

theorem endStop_of_store (s : State) (h : s.link.store ≠ []) : s.endStop = s := by
  simp [State.endStop, State.stopDone, List.isEmpty_iff, h]

theorem endStop_of_queue (s : State) (h : s.link.queue ≠ []) : s.endStop = s := by
  simp [State.endStop, State.stopDone, List.isEmpty_iff, h]

/-- What the end of a stop can do: nothing, or READY with no fence entry SETTING and the fence list as it stood. -/
theorem endStop_cases (s : State) :
    s.endStop = s ∨ (s.device.st = .stopping ∧ s.endStop.device.st = .ready ∧ s.endStop.fences = s.fences
      ∧ ∀ f, (s.fence f).st ≠ .setting) := by
  unfold State.endStop
  split
  · rename_i h
    simp only [Bool.and_eq_true, State.stopDone, List.all_eq_true, List.mem_finRange, decide_eq_true_eq, forall_const] at h
    exact .inr ⟨by simpa [State.stopping] using h.1, rfl, rfl, h.2.2⟩
  · exact .inl rfl

theorem reevaluate_same (s : State) (n : Nat) (h : s.sharedFree = n) : s.reevaluate n = s := by
  simp [State.reevaluate, h]

/-- With no inner event, an unchanged shared free and no stop that could end, a step ends as it stands. -/
theorem finish_idle (s : State) (n : Nat) (h : s.sharedFree = n) (hs : s.endStop = s) : s.finish n [] = s := by
  simp [State.finish, reevaluate_same s n h, hs]

theorem running_not_stopping (s : State) (h : s.device.st = .running) : s.stopping = false := by
  simp [State.stopping, h]

theorem running_not_halted (s : State) (h : s.device.st = .running) : s.halted = false := by
  simp [State.halted, h]

/-! ### Shared free -/

/-- Shared free depends on the count of free buffers and on the partition table alone. -/
theorem sharedFree_congr {s t : State} (h : t.pool.free = s.pool.free) (hp : t.parts = s.parts) :
    t.sharedFree = s.sharedFree := by
  simp [State.sharedFree, State.deficits, State.part, h, hp]

/-- A change of a partition entry that keeps its deficit keeps shared free. -/
theorem sharedFree_withPart (s : State) (p : PNum) (f : Partition → Partition)
    (h : (f (s.part p)).deficit = (s.part p).deficit) : (s.withPart p f).sharedFree = s.sharedFree := by
  have : ∀ q, ((s.withPart p f).part q).deficit = (s.part q).deficit := by
    intro q
    by_cases e : q = p
    · subst e; simpa using h
    · simp [withPart_part_ne, e]
  simp [State.sharedFree, State.deficits, this]

/-! ### The command read's return -/

@[simp] theorem commandLive_withTag (s : State) (t : TNum) (f : TagState → TagState) :
    (s.withTag t f).commandLive = s.commandLive := (rfl)

/-- A live command read returns: its tag is freed and its command runs. -/
theorem returnCommand_live (s : State) (n : TNum) (run : State → State) (h : s.adminTag = some n)
    (hl : s.commandLive = true) : s.returnCommand run = .next (run (s.withTag n fun _ => .free)) := by
  simp [State.returnCommand, h, State.takeCommand, hl]

/-- A command read that is no longer live returns: its tag is freed and it is discarded. -/
theorem returnCommand_dead (s : State) (n : TNum) (run : State → State) (h : s.adminTag = some n)
    (hl : s.commandLive = false) : s.returnCommand run = .next ((s.withTag n fun _ => .free).discardCommandRead) := by
  simp [State.returnCommand, h, State.takeCommand, hl]

/-- A command whose first test fails is refused BAD_PARAM. -/
@[simp] theorem execute_invalid (s : State) (o : Nat) (t : Tag) (r : State → Option HaltCause) (e : State → Effect) :
    s.execute o t false r e = s.badParam o t := (rfl)

/-- A command whose first test passes and whose table reads are good. -/
theorem execute_valid (s : State) (o : Nat) (t : Tag) (r : State → Option HaltCause) (e : State → Effect)
    (h : r s = none) : s.execute o t true r e = State.conclude s.sharedFree o t (e s.commandRead) := by
  simp [State.execute, h]

section
variable {s : State} (h1 : ∀ i, (s.slot i).parityOk = true) (h2 : ∀ w, (s.window w).parityOk = true)
  (h3 : ∀ p, (s.part p).parityOk = true)
include h1 h2 h3

/-- With every table entry good no read finds a parity error. -/
theorem parityError_allGood (l : List SNum) (m : List WNum) (k : List PNum) : s.parityError l m k = none :=
  parityError_good s l m k (fun i _ => h1 i) (fun w _ => h2 w) (fun p _ => h3 p)

theorem readPart_good (p : PNum) : s.readPart p = none := parityError_allGood h1 h2 h3 ..

theorem readWindow_good (w : WNum) : s.readWindow w = none := parityError_allGood h1 h2 h3 ..

theorem readReserves_good (p : PNum) (b : Bool) : s.readReserves p b = none := by
  simp only [State.readReserves, readPart_good h1 h2 h3, parityError_allGood h1 h2 h3]
  cases b <;> rfl

theorem openReads_good (p : PNum) (n : Nat) : s.openReads p n = none := readReserves_good h1 h2 h3 ..

theorem poolSetReads_good (p : PNum) (n : Nat) : s.poolSetReads p n = none := readReserves_good h1 h2 h3 ..

theorem closeReads_good (p : PNum) : s.closeReads p = none := by
  simp only [State.closeReads, readPart_good h1 h2 h3, parityError_allGood h1 h2 h3]
  split <;> rfl

theorem windowOpenReads_good (w : WNum) (p : PNum) : s.windowOpenReads w p = none := by
  simp only [State.windowOpenReads, readPart_good h1 h2 h3, readWindow_good h1 h2 h3, parityError_allGood h1 h2 h3]
  split
  · rfl
  · split <;> rfl

/-- Outside HALTED, with every table entry good, an inner event is carried out. -/
theorem workStep_allGood (w : Work) (h : s.halted = false) : s.workStep w = s.doWork w :=
  workStep_good s w h (parityError_allGood h1 h2 h3 ..)

end

/-- A refusal completes at once and changes nothing else. -/
theorem conclude_refuse (s : State) (n o : Nat) (t : Tag) (a : AdminStatus) (h : s.halted = false) (hn : s.sharedFree = n) :
    State.conclude n o t (s.refuse a) = s.adminComplete o t a 0 := by
  simp [State.conclude, State.refuse, reevaluate_same s n hn, h]

/-- A command that takes effect with no inner event and leaves shared free as it was completes OK. -/
theorem conclude_accept (s : State) (n o : Nat) (t : Tag) (h : s.halted = false) (hn : s.sharedFree = n) :
    State.conclude n o t (s.accept []) = s.adminComplete o t .ok 0 := by
  simp [State.conclude, State.accept, reevaluate_same s n hn, h]

/-- A deferred command with no inner event that leaves shared free as it was posts nothing. -/
theorem conclude_deferred (s : State) (n o : Nat) (t : Tag) (hn : s.sharedFree = n) :
    State.conclude n o t (s, [], .deferred) = s := by
  simp [State.conclude, reevaluate_same s n hn]

@[simp] theorem sharedFree_commandRead (s : State) : s.commandRead.sharedFree = s.sharedFree := (rfl)
@[simp] theorem sharedFree_withTag (s : State) (t : TNum) (f : TagState → TagState) : (s.withTag t f).sharedFree = s.sharedFree := (rfl)
@[simp] theorem sharedFree_withWindow (s : State) (w : WNum) (f : Window → Window) : (s.withWindow w f).sharedFree = s.sharedFree := (rfl)
@[simp] theorem sharedFree_withSlot (s : State) (i : SNum) (f : Slot → Slot) : (s.withSlot i f).sharedFree = s.sharedFree := (rfl)
@[simp] theorem sharedFree_withVector (s : State) (n : VNum) (f : MsgVector → MsgVector) : (s.withVector n f).sharedFree = s.sharedFree := (rfl)
@[simp] theorem sharedFree_withFences (s : State) (f : FenceUnit → FenceUnit) : (s.withFences f).sharedFree = s.sharedFree := (rfl)
@[simp] theorem sharedFree_withFence (s : State) (n : FNum) (f : Fence → Fence) : (s.withFence n f).sharedFree = s.sharedFree := (rfl)
@[simp] theorem sharedFree_withCard (s : State) (f : Card → Card) : (s.withCard f).sharedFree = s.sharedFree := (rfl)
@[simp] theorem sharedFree_withAdmin (s : State) (f : Admin → Admin) : (s.withAdmin f).sharedFree = s.sharedFree := (rfl)
@[simp] theorem sharedFree_withLink (s : State) (f : Link → Link) : (s.withLink f).sharedFree = s.sharedFree := (rfl)
@[simp] theorem sharedFree_withEvents (s : State) (f : EventRing → EventRing) : (s.withEvents f).sharedFree = s.sharedFree := (rfl)
@[simp] theorem sharedFree_withPoster (s : State) (f : Poster → Poster) : (s.withPoster f).sharedFree = s.sharedFree := (rfl)
@[simp] theorem sharedFree_withSched (s : State) (f : Scheduler → Scheduler) : (s.withSched f).sharedFree = s.sharedFree := (rfl)
@[simp] theorem sharedFree_withDevice (s : State) (f : Device → Device) : (s.withDevice f).sharedFree = s.sharedFree := (rfl)
@[simp] theorem sharedFree_withBuffer (s : State) (b : BNum) (f : Buffer → Buffer) : (s.withBuffer b f).sharedFree = s.sharedFree := (rfl)
@[simp] theorem sharedFree_withAssembling (s : State) (p : PNum) (a : Option Assembling) : (s.withAssembling p a).sharedFree = s.sharedFree := (rfl)
@[simp] theorem sharedFree_drawn (s : State) : s.drawn.sharedFree = s.sharedFree := (rfl)
@[simp] theorem sharedFree_postWrite (s : State) (w : PostedWrite) : (s.postWrite w).sharedFree = s.sharedFree := (rfl)
@[simp] theorem sharedFree_askRead (s : State) (r : Requester) (a : HostAddr) (n : Nat) : (s.askRead r a n).sharedFree = s.sharedFree := (rfl)
@[simp] theorem sharedFree_setDeferred (s : State) (i : Fin 8) (d : Option Deferred) : (s.setDeferred i d).sharedFree = s.sharedFree := (rfl)
@[simp] theorem sharedFree_takeDeferred (s : State) (i : Fin 8) (o : DeferOp) (t : Tag) (n : Nat) :
    (s.takeDeferred i o t n).sharedFree = s.sharedFree := (rfl)

@[simp] theorem sharedFree_react (s : State) (n : VNum) (r : Reaction) : (s.react n r).sharedFree = s.sharedFree := by
  unfold State.react; dsimp only; split <;> simp

@[simp] theorem sharedFree_newRecord (s : State) (n : VNum) (u : Bool) : (s.newRecord n u).sharedFree = s.sharedFree :=
  sharedFree_react ..

@[simp] theorem sharedFree_consumeWrite (s : State) (n : VNum) : (s.consumeWrite n).sharedFree = s.sharedFree :=
  sharedFree_react ..

@[simp] theorem sharedFree_writeEvent (s : State) (e : Event) : (s.writeEvent e).sharedFree = s.sharedFree := by
  simp [State.writeEvent]

@[simp] theorem sharedFree_handOver (s : State) (e : Event) : (s.handOver e).sharedFree = s.sharedFree := by
  unfold State.handOver; split <;> simp

@[simp] theorem sharedFree_adminComplete (s : State) (o : Nat) (t : Tag) (a : AdminStatus) (d : Nat) :
    (s.adminComplete o t a d).sharedFree = s.sharedFree := by simp [State.adminComplete]

@[simp] theorem sharedFree_setEventRing (s : State) (n : Nat) (b : HostAddr) : (s.setEventRing n b).sharedFree = s.sharedFree := by
  unfold State.setEventRing; dsimp only; split <;> simp [State.writeLost]

@[simp] theorem sharedFree_reportDeferred (s : State) (o : DeferOp) (n : Nat) (a : AdminStatus) :
    (s.reportDeferred o n a).sharedFree = s.sharedFree := by
  unfold State.reportDeferred; dsimp only
  split
  · rfl
  · split
    · rfl
    · split
      · rfl
      · split <;> simp

/-- The watermark's evaluation leaves the parts and the free count. -/
@[simp] theorem sharedFree_evalWatermark (s : State) : s.evalWatermark.sharedFree = s.sharedFree := by
  have h : ∀ b, (s.withPool fun q => { q with low := b }).sharedFree = s.sharedFree := fun _ => rfl
  unfold State.evalWatermark; dsimp only; split <;> simp [h]

end Sys2Proof.Machine.Laws
end

