-- ==== Sys2Proof/Laws/Memory.lean ====
section
/-! SUPPORT. Card memory: a read after a write, and that every operation of the Card Memory Controller keeps the canonical
form, which the reset memory has. -/

namespace Sys2Proof.Machine.Laws

/-- The bound is below an address. -/
def Below (low : Option Nat) (a : Nat) : Prop := ∀ l, low = some l → l < a

theorem wfAbove_cons {low : Option Nat} {k : Nat} {v : Byte} {rest : List Host.Cell} :
    wfAbove low ((k, v) :: rest) = true ↔ Below low k ∧ v ≠ unlistedByte ∧ wfAbove (some k) rest = true := by
  cases low <;> simp [wfAbove, Below, and_assoc]

theorem wfAbove_mono {low low' : Option Nat} {m : List Host.Cell} (h : ∀ a, Below low a → Below low' a)
    (hm : wfAbove low m = true) : wfAbove low' m = true := by
  cases m with
  | nil => rfl
  | cons x rest => obtain ⟨k, v⟩ := x; rw [wfAbove_cons] at *; exact ⟨h _ hm.1, hm.2⟩

theorem wfAbove_writeByte {low : Option Nat} {m : List Host.Cell} {a : Nat} {b : Byte} (hm : wfAbove low m = true)
    (ha : Below low a) : wfAbove low (writeByte m a b) = true := by
  induction m generalizing low with
  | nil =>
    unfold writeByte
    split
    · rfl
    · rename_i hb; exact wfAbove_cons.mpr ⟨ha, hb, rfl⟩
  | cons x rest ih =>
    obtain ⟨k, v⟩ := x
    rw [wfAbove_cons] at hm
    obtain ⟨h1, h2, h3⟩ := hm
    unfold writeByte
    split
    · rename_i hak
      split
      · exact wfAbove_cons.mpr ⟨h1, h2, h3⟩
      · rename_i hb
        exact wfAbove_cons.mpr ⟨ha, hb, wfAbove_cons.mpr ⟨by simpa [Below] using hak, h2, h3⟩⟩
    · split
      · rename_i e
        subst e
        split
        · exact wfAbove_mono (fun x hx l hl => lt_trans (h1 l hl) (hx _ rfl)) h3
        · rename_i hb; exact wfAbove_cons.mpr ⟨ha, hb, h3⟩
      · exact wfAbove_cons.mpr ⟨h1, h2, ih h3 (by simp [Below]; omega)⟩

/-- A write keeps the canonical form. -/
theorem wf_writeByte {m : List Host.Cell} (h : Memory.wf m = true) (a : Nat) (b : Byte) :
    Memory.wf (writeByte m a b) = true := wfAbove_writeByte h (by simp [Below])

theorem readByte_below {low : Option Nat} {m : List Host.Cell} {a : Nat} (hm : wfAbove low m = true) (l : Nat)
    (hl : low = some l) (ha : a ≤ l) : readByte m a = unlistedByte := by
  induction m generalizing low l with
  | nil => rfl
  | cons x rest ih =>
    obtain ⟨k, v⟩ := x
    rw [wfAbove_cons] at hm
    have := hm.1 l hl
    simp [readByte, show ¬k = a by omega, ih hm.2.2 k rfl (by omega)]

theorem readByte_writeByte_above {low : Option Nat} {m : List Host.Cell} (hm : wfAbove low m = true) (a x : Nat) (b : Byte) :
    readByte (writeByte m a b) x = if x = a then b else readByte m x := by
  induction m generalizing low with
  | nil =>
    unfold writeByte
    split
    · rename_i hb; simp [readByte, hb]
    · by_cases hx : a = x
      · subst hx; simp [readByte]
      · simp [readByte, hx, Ne.symm hx]
  | cons y rest ih =>
    obtain ⟨k, v⟩ := y
    rw [wfAbove_cons] at hm
    unfold writeByte
    split
    · rename_i hak
      split
      · rename_i hb
        by_cases hx : x = a
        · subst hx hb
          have := readByte_below hm.2.2 k rfl (a := x) (by omega)
          simp [readByte, show ¬k = x by omega, this]
        · simp [hx]
      · by_cases hx : a = x
        · subst hx; simp [readByte]
        · simp [readByte, hx, Ne.symm hx]
    · split
      · rename_i e
        subst e
        split
        · rename_i hb
          by_cases hx : x = a
          · subst hx hb
            simpa using readByte_below hm.2.2 x rfl (le_refl _)
          · simp [readByte, hx, Ne.symm hx]
        · by_cases hx : a = x
          · subst hx; simp [readByte]
          · simp [readByte, hx, Ne.symm hx]
      · rename_i h1 h2
        simp only [readByte]
        by_cases hk : k = x
        · subst hk; simp [show ¬k = a by omega]
        · simp [hk, ih hm.2.2]

/-- A read after a write: the byte written at its address, and every other byte as before. -/
theorem readByte_writeByte {m : List Host.Cell} (h : Memory.wf m = true) (a x : Nat) (b : Byte) :
    readByte (writeByte m a b) x = if x = a then b else readByte m x := readByte_writeByte_above h a x b

/-- Removing the entries below an address keeps the canonical form. -/
theorem wfAbove_filter {low : Option Nat} {m : List Host.Cell} (p : Host.Cell → Bool) (hm : wfAbove low m = true) :
    wfAbove low (m.filter p) = true := by
  induction m generalizing low with
  | nil => rfl
  | cons x rest ih =>
    obtain ⟨k, v⟩ := x
    rw [wfAbove_cons] at hm
    rw [List.filter_cons]
    split
    · exact wfAbove_cons.mpr ⟨hm.1, hm.2.1, ih hm.2.2⟩
    · exact wfAbove_mono (fun a ha l hl => lt_trans (hm.1 l hl) (ha _ rfl)) (ih hm.2.2)

/-- Storing a word keeps the canonical form. -/
theorem wf_storeWord {m : List Host.Cell} (h : Memory.wf m = true) (base : Nat) (data : List Byte) (w : Nat) :
    Memory.wf (storeWord m base data w) = true := by
  unfold storeWord
  generalize List.range 8 = l
  induction l generalizing m with
  | nil => exact h
  | cons i l ih =>
    rw [List.foldl_cons]
    apply ih
    split
    · split
      · exact wf_writeByte h _ _
      · exact h
    · exact h

/-! ### The controller -/

theorem change_mem (c : Card) (id : Nat) (f : CardOp → CardOp) : (c.change id f).mem = c.mem := rfl

theorem wf_reachWord {c : Card} (h : Memory.wf c.mem = true) (o : CardOp) (w : Nat) (bad : Bool) :
    Memory.wf (c.reachWord o w bad).mem = true := wf_storeWord h _ _ _

/-- An access that comes to a word keeps the canonical form. -/
theorem wf_come {c : Card} (h : Memory.wf c.mem = true) (o : CardOp) (w : Nat) (bad : Bool) :
    Memory.wf (c.come o w bad).mem = true := by
  unfold Card.come
  split
  · exact wf_reachWord h _ _ _
  · exact h

theorem wf_comeAll {c : Card} (h : Memory.wf c.mem = true) (w : Nat) (bad : CardOp → Bool) (l : List CardOp) :
    Memory.wf (l.foldl (fun c o => c.come o w (bad o)) c).mem = true := by
  induction l generalizing c with
  | nil => exact h
  | cons o l ih => exact ih (wf_come h _ _ _)

/-- The accesses that come to a word first keep the canonical form. -/
theorem wf_othersFirst (id : Nat) (write : Bool) (w : Nat) {cd : Card × Nat} (h : Memory.wf cd.1.mem = true) :
    Memory.wf (Card.othersFirst id write w cd).1.mem = true := by
  unfold Card.othersFirst
  split
  · exact wf_comeAll h w (fun o => Config.mergeFails cd.2 o.id) _
  · exact h

/-- An access that ends keeps the canonical form, whichever accesses come first. -/
theorem wf_finish (o : CardOp) (bad : Nat → Bool) (l : List Nat) {cd : Card × Nat} (h : Memory.wf cd.1.mem = true) :
    Memory.wf (Card.finish o bad l cd).1.mem = true := by
  induction l generalizing cd with
  | nil => exact h
  | cons w l ih =>
    unfold Card.finish
    apply ih
    split
    · exact wf_come (wf_othersFirst _ _ _ h) _ _ _
    · exact h

/-- With no other access on its words an access comes to them in order, and no free value is drawn. -/
theorem othersFirst_alone (id : Nat) (write : Bool) (w : Nat) (cd : Card × Nat)
    (h : ∀ o ∈ cd.1.ops, o.id ≠ id → o.touches w = false) : Card.othersFirst id write w cd = cd := by
  have : cd.1.contended id write w = false := by
    simp only [Card.contended, List.any_eq_false, Bool.and_eq_true, decide_eq_true_eq, not_and]
    intro o ho hn
    simp [CardOp.mayReach, CardOp.mayTake, h o ho hn]
  simp [Card.othersFirst, this]

/-! ### The scrub -/

theorem wf_zeroed {c : Card} (h : Memory.wf c.mem = true) (p n : Nat) : Memory.wf (c.zeroed p n).mem = true :=
  wfAbove_filter _ h

theorem wf_scrubFold (l : List Nat) {cd : Card × Nat} (h : Memory.wf cd.1.mem = true) :
    Memory.wf (l.foldl (fun cd w => Card.othersFirst cd.1.nextOp true w cd) cd).1.mem = true := by
  induction l generalizing cd with
  | nil => exact h
  | cons w l ih => exact ih (wf_othersFirst _ _ _ h)

/-- The scrub keeps the canonical form. -/
theorem wf_scrubTo (n : Nat) {cd : Card × Nat} (h : Memory.wf cd.1.mem = true) :
    Memory.wf (Card.scrubTo n cd).1.mem = true := by
  unfold Card.scrubTo
  split
  · exact h
  · exact wf_zeroed (wf_scrubFold _ h) _ _

theorem wf_scrubOn {s : State} (h : Memory.wf s.card.mem = true) : Memory.wf s.scrubOn.card.mem = true := by
  unfold State.scrubOn
  split
  · exact h
  · exact wf_scrubTo _ (cd := (s.card, s.draws + 1)) h

/-- The end of the scrub keeps the canonical form. -/
theorem wf_scrubEnd {s : State} (h : Memory.wf s.card.mem = true) : Memory.wf s.scrubEnd.card.mem = true :=
  wf_scrubTo _ (cd := (s.card, s.draws)) h

/-- Without a scrub nothing goes on. -/
theorem scrubOn_none {s : State} (h : s.card.scrub = none) : s.scrubOn = s := by simp [State.scrubOn, h]

/-- Entries kept by their address alone: a byte whose address is kept reads as before, any other as unlisted. -/
theorem readByte_filter (q : Nat → Bool) (m : List Host.Cell) (a : Nat) :
    readByte (m.filter fun x => q x.1) a = if q a = true then readByte m a else unlistedByte := by
  induction m with
  | nil => simp [readByte]
  | cons x rest ih =>
    obtain ⟨k, v⟩ := x
    by_cases hk : q k = true <;> by_cases ha : k = a
    · subst ha; simp [readByte, hk]
    · simp only [List.filter_cons, hk, if_true, readByte, if_neg ha, ih]
    · subst ha; simpa [List.filter_cons, hk] using ih
    · simp only [List.filter_cons, hk, Bool.false_eq_true, if_false, readByte, if_neg ha, ih]

/-- The scrub's stretch of words reads as zero, and every other byte as before. -/
theorem readByte_zeroed (c : Card) (p n a : Nat) :
    readByte (c.zeroed p n).mem a = if p ≤ wordOf a ∧ wordOf a < n then unlistedByte else readByte c.mem a := by
  have := readByte_filter (fun a => !(decide (p ≤ wordOf a) && decide (wordOf a < n))) c.mem a
  have e : (!(decide (p ≤ wordOf a) && decide (wordOf a < n))) = !decide (p ≤ wordOf a ∧ wordOf a < n) := by simp
  rw [e] at this
  by_cases h : p ≤ wordOf a ∧ wordOf a < n
  · rw [if_pos h]; simpa [Card.zeroed, h] using this
  · rw [if_neg h]; exact this.trans (if_pos (by simp only [h, decide_false, Bool.not_false]))

/-- With no access outstanding the scrub only writes zero, and no free value is drawn. -/
theorem scrubTo_alone {c : Card} (p n d : Nat) (hs : c.scrub = some p) (ho : c.ops = []) :
    Card.scrubTo n (c, d) = ({ c.zeroed p n with scrub := some (max p n) }, d) := by
  simp [Card.scrubTo, hs, Card.wordsInWay, ho]

/-- What a finished write leaves in card memory keeps the canonical form. -/
theorem wf_writeReached {s : State} (h : Memory.wf s.card.mem = true) (o : CardOp) (badFirst badLast : Bool) :
    Memory.wf (s.writeReached o badFirst badLast).card.mem = true :=
  wf_finish _ _ _ (cd := (s.scrubOn.card, s.scrubOn.draws)) (wf_scrubOn h)

/-- What a finished read leaves in card memory keeps the canonical form. -/
theorem wf_readTaken {s : State} (h : Memory.wf s.card.mem = true) (o : CardOp) :
    Memory.wf (s.readTaken o).card.mem = true := wf_finish _ _ _ (cd := (s.scrubOn.card, s.scrubOn.draws)) (wf_scrubOn h)

/-- The memory of the reset state has the canonical form. -/
theorem reset_memory_wf : Memory.wf State.reset.card.mem = true := rfl

end Sys2Proof.Machine.Laws
end

