-- ==== Sys2Proof/Laws/Operations.lean ====
section
/-! SUPPORT. What each shared operation can do, one lemma for each way it can go: events, vectors, deferred answers, the
watermark, buffers, card accesses, records and host ranges. -/

namespace Sys2Proof.Machine.Laws

/-! ### Outside HALTED -/

theorem halted_of_outer {s t : State} (h : outer t = outer s) : t.halted = s.halted := by
  have e : t.device = s.device := congrArg (fun x => x.1) h
  simp [State.halted, e]

theorem running_of_outer {s t : State} (h : outer t = outer s) : t.running = s.running := by
  have e : t.device = s.device := congrArg (fun x => x.1) h
  simp [State.running, e]

@[simp] theorem halted_adminComplete (s : State) (o : Nat) (t : Tag) (a : AdminStatus) (d : Nat) :
    (s.adminComplete o t a d).halted = s.halted := halted_of_outer (outer_adminComplete ..)
@[simp] theorem halted_handOver (s : State) (e : Event) : (s.handOver e).halted = s.halted := halted_of_outer (outer_handOver ..)
@[simp] theorem halted_newRecord (s : State) (n : VNum) (u : Bool) : (s.newRecord n u).halted = s.halted :=
  halted_of_outer (outer_newRecord ..)
@[simp] theorem halted_evalWatermark (s : State) : s.evalWatermark.halted = s.halted := halted_of_outer (outer_evalWatermark s)
@[simp] theorem halted_setEventRing (s : State) (n : Nat) (b : HostAddr) : (s.setEventRing n b).halted = s.halted :=
  halted_of_outer (outer_setEventRing ..)
@[simp] theorem halted_reportDeferred (s : State) (o : DeferOp) (n : Nat) (a : AdminStatus) :
    (s.reportDeferred o n a).halted = s.halted := halted_of_outer (outer_reportDeferred ..)
@[simp] theorem halted_postGroup (s : State) (i : SNum) (v : Verdict) : (s.postGroup i v).halted = s.halted :=
  halted_of_outer (outer_postGroup ..)
@[simp] theorem halted_setDeferred (s : State) (i : Fin 8) (d : Option Deferred) : (s.setDeferred i d).halted = s.halted := (rfl)
@[simp] theorem halted_postWrite (s : State) (w : PostedWrite) : (s.postWrite w).halted = s.halted := (rfl)

/-! ### Commands -/

/-- A command without inner events completes at once. -/
theorem conclude_done (u : State) (n o : Nat) (t : Tag) (a : AdminStatus) (d : Nat) (h : u.halted = false) (hn : u.sharedFree = n) :
    State.conclude n o t (u, [], .done a d) = u.adminComplete o t a d := by
  simp [State.conclude, reevaluate_same u n hn, h]

/-- The lowest free entry of the deferred table. -/
theorem deferredFree_some {s : State} {i : Fin 8} (h : look s.admin.deferred i = none)
    (h' : ∀ j < i, look s.admin.deferred j ≠ none) : s.deferredFree = some i := by
  unfold State.deferredFree
  cases e : lowest (fun i => (look s.admin.deferred i).isNone) with
  | none => have := lowest_none.mp e i; simp [h] at this
  | some k =>
    have h1 := lowest_some e
    rcases lt_trichotomy k i with g | g | g
    · exact absurd (Option.isNone_iff_eq_none.mp h1) (h' k g)
    · rw [g]
    · have := lowest_least e i g; simp [h] at this

theorem deferredFree_none {s : State} (h : ∀ j, look s.admin.deferred j ≠ none) : s.deferredFree = none :=
  lowest_none.mpr fun i => by have := h i; cases e : look s.admin.deferred i <;> simp_all

/-! ### Vectors and events -/

theorem react_silent (s : State) (n : VNum) (v : MsgVector) : s.react n (v, false) = s.withVector n fun _ => v := (rfl)

theorem react_send (s : State) (n : VNum) (v : MsgVector) :
    s.react n (v, true) = (s.withVector n fun _ => v).postWrite (v.message n) := (rfl)

theorem handOver_written (s : State) (e : Event) (h : s.events.takes = true) : s.handOver e = s.writeEvent e := by
  simp [State.handOver, h]

theorem handOver_lost (s : State) (e : Event) (h : s.events.takes = false) : s.handOver e = s.withEvents EventRing.lose := by
  simp [State.handOver, h]

/-! ### The deferred command table -/

theorem reportDeferred_absent (s : State) (o : DeferOp) (n : Nat) (a : AdminStatus) (h : s.deferredAt o n = none) :
    s.reportDeferred o n a = s := by simp [State.reportDeferred, h]

/-- A report with answer POST frees its entry and completes the command it holds. -/
theorem reportDeferred_post (s : State) (o : DeferOp) (n : Nat) (a : AdminStatus) (i : Fin 8) (d : Deferred)
    (h : s.deferredAt o n = some i) (hd : look s.admin.deferred i = some d) (hp : d.post = true) (hh : s.halted = false) :
    s.reportDeferred o n a = (s.setDeferred i none).adminComplete d.op.code d.tag a 0 := by
  simp [State.reportDeferred, h, hd, hp, hh]

/-- A report with answer DISCARD only frees its entry. -/
theorem reportDeferred_discard (s : State) (o : DeferOp) (n : Nat) (a : AdminStatus) (i : Fin 8) (d : Deferred)
    (h : s.deferredAt o n = some i) (hd : look s.admin.deferred i = some d) (hp : d.post = false) (hh : s.halted = false) :
    s.reportDeferred o n a = s.setDeferred i none := by
  simp [State.reportDeferred, h, hd, hp, hh]

/-- The entry found waits on the operation and the object asked for. -/
theorem deferredAt_some {s : State} {o : DeferOp} {n : Nat} {i : Fin 8} (h : s.deferredAt o n = some i) :
    ∃ d, look s.admin.deferred i = some d ∧ d.op = o ∧ d.object = n := by
  have := lowest_some (show lowest _ = some i from h)
  cases e : look s.admin.deferred i with
  | none => simp [e] at this
  | some d => simp [e] at this; exact ⟨d, rfl, this⟩

/-! ### The watermark -/

theorem evalWatermark_of (s : State) :
    s.evalWatermark =
      (if s.pool.low = true then
        if s.pool.watermark ≤ s.sharedFree then (s.withPool fun q => { q with low := false }).handOver (.poolRecovered s.sharedFree)
        else s.withPool fun q => { q with low := true }
      else if s.sharedFree < s.pool.watermark then (s.withPool fun q => { q with low := true }).handOver (.poolLow s.sharedFree)
      else s.withPool fun q => { q with low := false }) := by
  unfold State.evalWatermark watermarkStep
  by_cases h : s.pool.low = true <;> by_cases h1 : s.pool.watermark ≤ s.sharedFree
  · simp [h, h1]
  · have : ¬ s.pool.watermark = 0 := by omega
    simp [h, h1, this]
  · have : ¬ s.sharedFree < s.pool.watermark := by omega
    simp [h, this]
  · have h2 : s.sharedFree < s.pool.watermark := by omega
    have : ¬ s.pool.watermark = 0 := by omega
    simp [h, h2, this]

/-- A watermark state that fits shared free stays, and no event follows. -/
theorem watermarkStep_settled (low : Bool) (w f : Nat) :
    watermarkStep (watermarkStep low w f).1 w f = ((watermarkStep low w f).1, none) := by
  cases low <;> simp only [watermarkStep] <;> (repeat' split) <;> simp_all <;> omega

/-- Where the watermark state fits shared free already, a re-evaluation changes nothing. -/
theorem evalWatermark_settled (s : State) (h : watermarkStep s.pool.low s.pool.watermark s.sharedFree = (s.pool.low, none)) :
    s.evalWatermark = s := by
  simp only [State.evalWatermark, h]
  rfl

/-! ### Window references -/

/-- The references of a member's start, all windows at once. -/
theorem takeRefs_eq (s : State) (l : List WNum) :
    s.takeRefs l = { s with windows := mapTab (fun w (y : Window) => { y with refs := y.refs + l.count w }) s.windows } := by
  induction l generalizing s with
  | nil =>
    have : mapTab (fun w (y : Window) => { y with refs := y.refs + List.count w [] }) s.windows = s.windows := by
      apply table_ext; intro i; simp
    simp only [State.takeRefs, this]
  | cons w rest ih =>
    simp only [State.takeRefs, ih, State.withWindow]
    congr 1
    apply table_ext
    intro v
    by_cases e : v = w
    · subst e; simp; omega
    · simp [look_upd_ne _ _ _ _ e, List.count_cons, Ne.symm e]

/-- The references of a member's end, all windows at once, where no window of them retires with it. -/
theorem dropRefs_kept (s : State) (l : List WNum) (h : ∀ w ∈ l, (s.window w).st ≠ .retiring ∨ l.count w < (s.window w).refs) :
    s.dropRefs l = { s with windows := mapTab (fun w (y : Window) => { y with refs := y.refs - l.count w }) s.windows } := by
  induction l generalizing s with
  | nil =>
    have : mapTab (fun w (y : Window) => { y with refs := y.refs - List.count w [] }) s.windows = s.windows := by
      apply table_ext; intro i; simp
    simp only [State.dropRefs, this]
  | cons w rest ih =>
    have one : s.dropRef w = s.withWindow w fun y => { y with refs := y.refs - 1 } := by
      have hw := h w (List.mem_cons_self ..)
      have at' : (s.withWindow w fun y => { y with refs := y.refs - 1 }).window w = { s.window w with refs := (s.window w).refs - 1 } := by
        simp [State.window, State.withWindow]
      simp only [State.dropRef, at']
      rw [if_neg]
      rintro ⟨h1, h2⟩
      rcases hw with hw | hw
      · exact hw h1
      · simp only [List.count_cons_self] at hw
        have h2' : (s.window w).refs - 1 = 0 := h2
        omega
    simp only [State.dropRefs]
    rw [one, ih]
    · simp only [State.withWindow]
      congr 1
      apply table_ext
      intro v
      by_cases e : v = w
      · subst e; simp; omega
      · simp [look_upd_ne _ _ _ _ e, List.count_cons, Ne.symm e]
    · intro v hv
      have hv' := h v (List.mem_cons_of_mem _ hv)
      by_cases e : v = w
      · subst e
        simp only [State.window, State.withWindow, look_upd_same, List.count_cons_self] at hv' ⊢
        rcases hv' with hv' | hv'
        · exact .inl hv'
        · exact .inr (by omega)
      · simp only [State.window, State.withWindow, look_upd_ne _ _ _ _ e, List.count_cons, beq_iff_eq, Ne.symm e, if_false] at hv' ⊢
        exact hv'

/-! ### Fence counts -/

/-- Fences that an access end leaves with accesses outstanding count one less, each of them once. -/
theorem countDownFences_left (s : State) (l : List FNum) (hl : l.Nodup)
    (h : ∀ f ∈ l, (s.fence f).st = .setting → ∃ m, (s.fence f).outstanding = some (m + 2)) :
    s.countDownFences l = s.withFences fun u => { u with entries := mapTab (fun f y =>
      if f ∈ l ∧ y.st = .setting then { y with outstanding := y.outstanding.map (· - 1) } else y) u.entries } := by
  induction l generalizing s with
  | nil =>
    have : mapTab (fun f (y : Fence) => if f ∈ ([] : List FNum) ∧ y.st = .setting then
        { y with outstanding := y.outstanding.map (· - 1) } else y) s.fences.entries = s.fences.entries := by
      apply table_ext; intro i; simp
    simp only [State.countDownFences, State.withFences, this]
  | cons f rest ih =>
    obtain ⟨hf, hr⟩ := List.nodup_cons.mp hl
    have one : s.countDownFence f = s.withFences fun u => { u with entries := mapTab (fun g y =>
        if g = f ∧ y.st = .setting then { y with outstanding := y.outstanding.map (· - 1) } else y) u.entries } := by
      unfold State.countDownFence
      by_cases hs : (s.fence f).st = .setting
      · obtain ⟨m, hm⟩ := h f (List.mem_cons_self ..) hs
        have hs' : (look s.fences.entries f).st = .setting := hs
        have hm' : (look s.fences.entries f).outstanding = some (m + 2) := hm
        simp only [hs, hm, if_true]
        rw [if_neg (by omega)]
        simp only [State.withFence, State.withFences]
        congr 2
        apply table_ext
        intro g
        by_cases e : g = f
        · subst e; simp [hs', hm']
        · simp [look_upd_ne _ _ _ _ e, e]
      · have hs' : ¬(look s.fences.entries f).st = .setting := hs
        simp only [hs, if_false, State.withFences]
        have : mapTab (fun g (y : Fence) => if g = f ∧ y.st = .setting then
            { y with outstanding := y.outstanding.map (· - 1) } else y) s.fences.entries = s.fences.entries := by
          apply table_ext; intro g
          simp only [look_mapTab]
          by_cases e : g = f
          · subst e; simp [hs']
          · simp [e]
        rw [this]
    have at' (g : FNum) (hg : g ≠ f) : (s.countDownFence f).fence g = s.fence g := by
      rw [one]; simp [State.fence, State.withFences, hg]
    simp only [State.countDownFences]
    rw [ih _ hr fun g hg hs => ?_]
    · rw [one]
      simp only [State.withFences]
      congr 2
      apply table_ext
      intro g
      by_cases e : g = f
      · subst e; simp [hf]
      · simp [e]
    · have hg' : g ≠ f := fun e => hf (e ▸ hg)
      rw [at' g hg'] at hs ⊢
      exact h g (List.mem_cons_of_mem _ hg) hs

/-! ### Buffers -/

/-- A released buffer with no requester that may take one stays free. -/
theorem releaseBuffer_free (s : State) (b : BNum) (p : PNum) (h : (s.freeUp b p).arbiterPick = none) :
    s.releaseBuffer b p = (s.freeUp b p, none) := by simp [State.releaseBuffer, h]

/-- A released buffer goes to the requester the arbiter picks. -/
theorem releaseBuffer_grant (s : State) (b : BNum) (p q : PNum) (i : SNum) (h : (s.freeUp b p).arbiterPick = some (q, i)) :
    s.releaseBuffer b p = ((s.freeUp b p).arbiterGrant b q i, some i) := by simp [State.releaseBuffer, h]

/-- With nobody waiting the arbiter picks nobody. -/
theorem arbiterPick_empty (s : State) (h : s.pool.waiting = []) : s.arbiterPick = none := by
  simp [State.arbiterPick, Pool.oldest, h]

/-- With nobody waiting a pass grants nothing. -/
theorem arbiterPass_empty (n : Nat) (s : State) (h : s.pool.waiting = []) : State.arbiterPass n s = (s, []) := by
  cases n <;> simp [State.arbiterPass, arbiterPick_empty s h]

/-! ### Card accesses -/

theorem presentAccess_stopped (s : State) (i : SNum) (k base len : Nat) (w : Option (List Byte)) (f : FNum)
    (h : s.fenceHit base len = some f) : s.presentAccess i k base len w = .error f := by simp [State.presentAccess, h]

theorem presentAccess_issued (s : State) (i : SNum) (k base len : Nat) (w : Option (List Byte))
    (h : s.fenceHit base len = none) : s.presentAccess i k base len w = .ok (s.issueAccess i k base len w) := by
  simp [State.presentAccess, h]

/-- An issued access in the words of the statements. -/
theorem issueAccess_eq (s : State) (i : SNum) (k base len : Nat) (w : Option (List Byte)) :
    s.issueAccess i k base len w = s.withAccess i k base len w := (rfl)

/-- A released buffer in the words of the statements. -/
theorem freeUp_eq (s : State) (b : BNum) (p : PNum) : s.freeUp b p = s.withBufferBack b p := (rfl)

/-- A granted buffer in the words of the statements. -/
theorem grantBuffer_eq (s : State) (b : BNum) (i : SNum) (p : PNum) : s.grantBuffer b i p = s.withBufferGranted b i p := (rfl)

/-- Eligibility for a buffer in the words of the statements. -/
theorem eligibleForBuffer_iff (s : State) (p : PNum) : s.eligibleForBuffer p = true ↔ MayTake s p := by
  simp [State.eligibleForBuffer, Partition.isOpen, MayTake]

theorem freeBuffer_of_lowest {s : State} {b : BNum} (h : LowestFree s b) : s.freeBuffer = some b :=
  lowest_eq_some (by simp [h.1]) fun j hj => by simpa [Option.isSome_iff_ne_none] using h.2 j hj

theorem fenceHit_of_clear {s : State} {base len : Nat} (h : FenceClear s base len) : s.fenceHit base len = none := by
  rw [State.fenceHit, lowest_none]
  intro f
  rcases h f with h | h | h
  · simp [Fence.inForce, h]
  · simp [overlaps]; omega
  · simp [overlaps]; omega

theorem fenceHit_of_stops {s : State} {base len : Nat} {f : FNum} (h : FenceStops s base len f) :
    s.fenceHit base len = some f := by
  have inForce (g : FNum) : (s.fence g).inForce = true ↔ (s.fence g).st ≠ .empty := by
    cases e : (s.fence g).st <;> simp [Fence.inForce, e]
  have meets (g : FNum) : ((s.fence g).inForce && overlaps base len (s.fence g).cardBase (s.fence g).length) = true
      ↔ (s.fence g).st ≠ .empty ∧ (s.fence g).cardBase < base + len ∧ base < (s.fence g).cardBase + (s.fence g).length := by
    rw [Bool.and_eq_true, inForce]
    simp [overlaps, and_comm]
  exact lowest_eq_some ((meets f).mpr h.1) fun j hj => by
    have := mt (meets j).mp (h.2 j hj)
    simpa using this

/-- An access that no fence counts ends without a fence becoming ACTIVE. -/
theorem endRecord_absent (s : State) (id : Nat) (h : s.fences.records.find? (fun r => decide (r.id = id)) = none) :
    s.endRecord id = s := by simp [State.endRecord, h]

/-- An access that has a record ends with the record gone and its fences counted down. -/
theorem endRecord_found (s : State) (id : Nat) (r : AccessRecord)
    (h : s.fences.records.find? (fun r => decide (r.id = id)) = some r) :
    s.endRecord id = (s.withFences fun u => { u with records := u.records.filter fun r => decide (r.id ≠ id) }).countDownFences
      r.countedBy := by simp [State.endRecord, h]

/-! ### Bytes -/

@[simp] theorem leBytes_length (n v : Nat) : (leBytes n v).length = n := by
  induction n generalizing v with
  | zero => rfl
  | succ n ih => simp [leBytes, ih]

/-- A value that fits reads back from its bytes. -/
theorem leNat_leBytes (n v : Nat) (h : v < 256 ^ n) : leNat (leBytes n v) = v := by
  induction n generalizing v with
  | zero => simp at h; simp [leBytes, leNat, h]
  | succ n ih =>
    have h' : v / 256 < 256 ^ n := by rw [Nat.div_lt_iff_lt_mul (by decide)]; rwa [pow_succ] at h
    simp only [leBytes, leNat, ih _ h', BitVec.toNat_ofNat]
    omega

/-! ### Host reads -/

/-- A 64-byte range at a multiple of 64 is one request (R53, R161, R176). -/
theorem readRequests_record (r : Requester) (a : HostAddr) (h : a.toNat % 64 = 0) :
    readRequests r a 64 = [{ requester := r, addr := a, len := 64, place := 0 }] := by
  have h1 : min 64 (Config.readCut - a.toNat % Config.readCut) = 64 := by
    have : a.toNat % 512 % 64 = 0 := by omega
    simp only [Config.readCut]; omega
  have h2 : cutRange (64 / Config.readCut + 2) a.toNat 64 0 = [(a.toNat, 64, 0)] := by
    show cutRange 2 a.toNat 64 0 = _
    simp [cutRange, h1]
  simp [readRequests, h2]

theorem placeBytes_append (done : List (Option Byte)) (data : List Byte) :
    placeBytes (done ++ List.replicate data.length none) done.length data = done ++ data.map some := by
  induction data generalizing done with
  | nil => simp [placeBytes]
  | cons b data ih =>
    have e : (done ++ List.replicate (data.length + 1) none).set done.length (some b)
        = (done ++ [some b]) ++ List.replicate data.length none := by
      simp [List.replicate_succ]
    simp only [List.length_cons, placeBytes, e]
    have := ih (done ++ [some b])
    simp only [List.length_append, List.length_singleton] at this
    rw [this]; simp

/-- A part that is the whole of a request's data. -/
theorem placeBytes_whole (data : List Byte) : placeBytes (List.replicate data.length none) 0 data = data.map some := by
  simpa using placeBytes_append [] data

@[simp] theorem allArrived_map (data : List Byte) : allArrived (data.map some) = true := by simp [allArrived]

@[simp] theorem arrivedData_map (data : List Byte) : arrivedData (data.map some) = data := by
  simp [arrivedData]

end Sys2Proof.Machine.Laws
end

