-- ==== Sys2Proof/Tests/Slice0.lean ====
section
/-! SUPPORT. Tests: the well-formedness checks, record decoding from bytes written out by hand, steps whose results the manual
gives, and a witness for each statement that has hypotheses. -/

namespace Sys2Proof.Machine.Tests

/-! ### Small states -/

/-- A device in RUNNING with every table at its reset value. -/
def live : State :=
  { State.reset with device := { State.reset.device with st := .running }, card := { State.reset.card with scrub := none } }

/-- The device in another state. -/
def inState (st : DeviceState) : State := live.withDevice fun d => { d with st }

/-- A command read of the Admin Engine is on the link, on tag 5; the admin rings have sixteen entries. -/
def cmd (s : State) : State :=
  (s.withTag 5 fun _ => .busy { requester := .admin, addr := 0, len := 64, place := 0 } (List.replicate 64 none) 32000 32000).withAdmin
    fun a => { a with sqSize := 16, cqSize := 16, sqTail := 1, reserved := 1, readOutstanding := true }

/-- Partition 3 opened with rings of sixteen entries, depth 2, reserve 8 and limit 16, and changed by `f`. -/
def withPart3 (f : Partition → Partition) : State :=
  live.withPart 3 fun _ => f (Partition.opening 4 4 2 8 16 0x10000 0x20000)

/-- Partition 3 in state `st`, holding `slots` slots. -/
def part3 (st : PartState) (slots : Nat) : State := withPart3 fun y => { y with st, slotsHeld := slots }

/-- Every deferred table entry is occupied by a WINDOW_CLOSE of window 60. -/
def full (s : State) : State :=
  s.withAdmin fun a =>
    { a with deferred := Vector.replicate 8 (some { op := .windowClose, tag := 9, object := 60, post := true, report := none }) }

/-- A deferred command with tag 9 whose completion is to be posted. -/
def deferred9 (op : DeferOp) (object : Nat) : Deferred := { op, tag := 9, object, post := true, report := none }

/-- Entry 7 of the deferred table waits on `object`. -/
def waiting7 (op : DeferOp) (object : Nat) (s : State) : State := s.setDeferred 7 (some (deferred9 op object))

/-- Window `w` in state `st` with `refs`, owned by partition 3, 64 KiB from card address 0x200000. -/
def withWin (w : WNum) (st : WindowState) (refs : Nat) (s : State) : State :=
  s.withWindow w fun _ =>
    { st, owner := some 3, cardBase := 0x200000, length := 0x10000, access := .readWrite, refs, closeTag := none, parityOk := true }

/-- Fence `f` in state `st` over 4 KiB from card address 0x201000. -/
def withFen (f : FNum) (st : FenceState) (s : State) : State :=
  s.withFence f fun _ => { st, cardBase := 0x201000, length := 0x1000, outstanding := none, setTag := none }

/-- An access record of slot 0 over 2 KiB from card address 0x200800. -/
def withRecord (s : State) : State :=
  s.withFences fun u => { u with records := [{ id := 7, slot := 0, chunk := 0, base := 0x200800, len := 2048, countedBy := [] }] }

/-! ### Well-formed commands -/

theorem test_ignored_write_to_notify_is_none : Instr.wellFormed (.registerWriteIgnored 0x040 4 0) = false := by decide

theorem test_ignored_write_of_no_byte_is_none : Instr.wellFormed (.registerWriteIgnored 0x008 0 0) = false := by decide

theorem test_ignored_write_of_nine_bytes_is_none : Instr.wellFormed (.registerWriteIgnored 0x008 9 0) = false := by decide

theorem test_ignored_write_narrow : Instr.wellFormed (.registerWriteIgnored 0x040 2 0) = true := by decide

theorem test_selector_34_is_not_bad : Instr.wellFormed (.notifyBadSelector 34 0) = false := by decide

theorem test_opcode_38_is_known : Instr.wellFormed (.unknownOpcode 0x38 0) = false := by decide

theorem test_empty_part_is_none : Instr.wellFormed (.hostReadPartReturn 0 0 []) = false := by decide

theorem test_part_beyond_the_longest_request_is_none : Instr.wellFormed (.hostReadPartReturn 0 512 [1]) = false := by decide

/-! ### Decoding (bytes written out from R196 and R198) -/

/-- WINDOW_OPEN, tag 1234h: window 4, owner 2, READ_WRITE, card_base 00200000h, length 64 KiB. -/
def windowOpenBytes : List Byte :=
  [0x10, 0, 0x34, 0x12, 4, 2, 3, 0, 0x00, 0x00, 0x20, 0x00, 0, 0, 0, 0, 0x00, 0x00, 0x01, 0x00, 0, 0, 0, 0]
    ++ List.replicate 40 0

theorem test_window_open_decodes :
    decodeCommand windowOpenBytes = .windowOpen 0x1234 false 4 2 3 0x200000 0x10000 := by decide

/-- A reserved byte of WINDOW_OPEN is set: byte 7. -/
theorem test_reserved_byte_seen :
    decodeCommand (windowOpenBytes.set 7 1) = .windowOpen 0x1234 true 4 2 3 0x200000 0x10000 := by decide

theorem test_partition_open_decodes :
    decodeCommand ([0x01, 0, 7, 0, 2, 6, 4, 4, 2, 8, 0, 0, 0, 0, 0, 0, 0x00, 0x10, 0, 0, 0, 0, 0, 0, 0x00, 0x20] ++ List.replicate 38 0)
      = .partitionOpen 7 false 2 6 4 4 2 8 0x1000 0x2000 := by decide

theorem test_fence_set_decodes :
    decodeCommand ([0x18, 0, 1, 0, 7, 0, 0, 0, 0x00, 0x10, 0, 0, 0, 0, 0, 0, 0x00, 0x20] ++ List.replicate 46 0)
      = .fenceSet 1 false 7 0x1000 0x2000 := by decide

theorem test_vector_set_decodes :
    decodeCommand ([0x28, 0, 1, 0, 17, 1, 4, 25, 0x04, 0, 0xE0, 0xFE, 0, 0, 0, 0, 0x78, 0x56, 0x34, 0x12] ++ List.replicate 44 0)
      = .vectorSet 1 false 17 1 4 25 0xFEE00004 0x12345678 := by decide

theorem test_event_ring_set_decodes :
    decodeCommand ([0x30, 0, 1, 0, 0x00, 0x04, 0, 0, 0x00, 0x10] ++ List.replicate 54 0)
      = .eventRingSet 1 false 1024 0x1000 := by decide

theorem test_link_set_decodes :
    decodeCommand ([0x38, 0, 1, 0, 0x00, 0x01] ++ List.replicate 58 0) = .linkSet 1 false 256 := by decide

/-- NOTIFY, bits 31:24 set: selectors 15, 31, 33, 34 and 35 (R183, R188). -/
theorem test_notify_selectors :
    decodeRegisterWrite 0x040 4 0xFF0F1234 = some (.notifySqTail 15 0x1234)
    ∧ decodeRegisterWrite 0x040 4 0xFF1F1234 = some (.notifyCqHead 15 0x1234)
    ∧ decodeRegisterWrite 0x040 4 0xFF211234 = some (.notifyAdminCqHead 0x1234)
    ∧ decodeRegisterWrite 0x040 4 0xFF221234 = some (.notifyEventRingHead 0x1234)
    ∧ decodeRegisterWrite 0x040 4 0xFF231234 = some (.notifyBadSelector 35 0x1234) := by decide

/-- A 64-bit write to NOTIFY is taken as its low 32 bits (R184). -/
theorem test_notify_of_eight_bytes : decodeRegisterWrite 0x040 8 0xFFFFFFFF_00200010 = some (.notifyAdminSqTail 16) := by decide

/-- CONTROL, bits 1 and 0 (R185), and ADMIN_SIZES, whole (R187). -/
theorem test_control_and_sizes_writes :
    decodeRegisterWrite 0x004 4 0xFFFFFFFC = some .stop ∧ decodeRegisterWrite 0x004 4 1 = some .enableAttempt
    ∧ decodeRegisterWrite 0x004 4 2 = some (.functionReset false) ∧ decodeRegisterWrite 0x020 4 0x804 = some (.adminSizesWrite 0x804) := by
  decide

theorem test_opcode_zero_decodes : decodeCommand (List.replicate 64 0) = .unknownOpcode 0 0 := by decide

/-- Entry 11 of section 11.6: COPY_IN, CONT, tag 0101h, length 5000, host address 40000000h, window 4 offset 0. -/
theorem test_record_decodes :
    SubRecord.decode ([1, 1, 0x01, 0x01, 0x88, 0x13, 0, 0, 0x00, 0x00, 0x00, 0x40, 0, 0, 0, 0, 4] ++ List.replicate 47 0)
      = { op := 1, flags := 1, tag := 0x0101, length := 5000, hostAddr := 0x40000000, primaryWindow := 4, secondaryWindow := 0,
          reservedLow := 0, primaryOffset := 0, secondaryOffset := 0, pattern := 0, reservedHigh := 0 } := by decide

/-! ### Values the manual gives -/

/-- Section 11.6: the host range of the third chunk is cut into 512 and 392 bytes. -/
theorem test_range_cut : (cutRange 4 0x40001000 904 0).map (fun x => (x.1, x.2.1)) = [(0x40001000, 512), (0x40001200, 392)] := by decide

/-- Section 11.6: the completion record of the group. -/
theorem test_completion_record :
    completionBytes 0x0100 10 3 { status := .ok, detail := 0, failedMember := 0 } 10000 0 true
      = [0x00, 0x01, 10, 0, 0, 0, 0, 0x83, 0x10, 0x27, 0, 0, 0, 0, 0, 0] := by decide

/-- Section 11.7: the refusal of the first WINDOW_OPEN, opcode 10h, OVERLAP with window 9. -/
theorem test_admin_completion : adminBytes 0x31 0x10 .overlap 9 true = [0x31, 0, 0x10, 5, 9, 0, 0, 0x80, 0, 0, 0, 0, 0, 0, 0, 0] := by
  decide

/-- Section 11.7: the TRANSFER_ERROR event of the DIGEST of partition 5 that failed WINDOW/NOT_OPEN. -/
theorem test_event_record :
    (Event.transferError 5 0x0102 .window 1).bytes true = [1, 5, 0x02, 0x01, 1, 1, 0, 0x80, 0, 0, 0, 0, 0, 0, 0, 0] := by decide

/-- Section 11.8: vector 5, enabled with N 4 and H 25. -/
def vector5 : MsgVector := MsgVector.configured true 4 25 0 0

/-- Section 11.8, time 10: the first record starts the timer of 100 µs. -/
theorem test_first_record_gathers :
    vector5.onRecord false = ({ vector5 with st := .gathering, u := 1, timer := some 100 }, false) := by decide

/-- Section 11.8, time 150: the head write finds 2 records, below N, and gathers again. -/
theorem test_head_gathers_again :
    ({ vector5 with st := .announced, u := 2 }).onConsume = ({ vector5 with st := .gathering, u := 2, timer := some 100 }, false) := by
  decide

/-- Section 11.8, time 180: the fourth record sends message 2. -/
theorem test_threshold_sends :
    ({ vector5 with st := .gathering, u := 3, timer := some 70 }).onRecord false = ({ vector5 with st := .announced }, true) := by decide

/-- Section 11.8, time 220: the head write finds the urgent mark and sends message 3. -/
theorem test_urgent_sends :
    ({ vector5 with st := .announced, u := 1, urgent := true }).onConsume = ({ vector5 with st := .announced }, true) := by decide

/-- Section 11.9: shared free is 0 with 2 buffers free, and partition 1 above its reserve may take none. -/
def part9 : State :=
  (((live.withPool fun q => { q with free := 2 }).withPart 1 fun _ => { Partition.opening 4 4 1 8 64 0 0 with held := 60 }).withPart 7
    fun _ => { Partition.opening 4 4 1 0 2 0 0 with held := 2 }).withPart 9 fun _ => Partition.opening 4 4 1 2 4 0 0

theorem test_shared_free : part9.sharedFree = 0 ∧ part9.eligibleForBuffer 1 = false ∧ part9.eligibleForBuffer 9 = true := by decide

/-- Section 11.4: a log2 size of 13 fails the first test of PARTITION_OPEN. -/
theorem test_ring_size_13 : openParamsOk 13 4 1 0 1 0 0 = false ∧ openParamsOk 12 12 16 96 128 0 0x1000 = true := by decide

/-! ### Witnesses: states and operands that meet the hypotheses of each statement, clause by clause -/

/-- The device in READY with sizes written. -/
def sized (sizes : BitVec 32) : State := (inState .ready).withDevice fun d => { d with adminSizes := sizes }

/-- An event ring of sixteen entries. -/
def withRing (s : State) : State := s.withEvents fun r => { r with configured := true, base := 0x5000, size := 16 }

/-- Partition 1 with reserve `r`. -/
def withPart1 (r : Nat) (s : State) : State := s.withPart 1 fun _ => Partition.opening 4 4 1 r 128 0 0

/-- Slot 31 in state `st`, of partition 3. -/
def withSlot31 (st : SlotState) (s : State) : State := s.withSlot 31 fun x => { x with st, partition := 3 }

/-- Windows of partition 3, 4 KiB from card address 0x1000, READ. -/
def withWindows (l : List WNum) (s : State) : State := l.foldl (fun s w => s.withWindow w fun _ => Window.fresh 3 0x1000 0x1000 .read) s

/-- The poster's index at `n`. -/
def indexed (n : Nat) (s : State) : State := s.withPoster fun q => { q with index := n }

/-- The fence list locked. -/
def lockedList (s : State) : State := s.withFences fun u => { u with locked := true }

/-- The admin channel FAULTED. -/
def faultedAdmin (s : State) : State := s.withAdmin fun a => { a with faulted := true }

/-- The write store. -/
def stored (w : List PostedWrite) (s : State) : State := s.withLink fun l => { l with store := w }

/-- Tag 63 is BUSY with request `q`, of which nothing has arrived. -/
def busy63 (q : ReadRequest) (s : State) : State := s.withTag 63 fun _ => .busy q (List.replicate q.len none) 7 32000

theorem witness_StepRunsFrontCommand :
    ({ live with pending := [.stop, .stop] } : State).pending = .stop :: [.stop] ∧ live.pending = [] := by decide

theorem witness_PowerOnAndBusReset : live.card.scrub = none ∧ State.reset.card.scrub = some 0 ∧ State.reset.card.ops = [] := by decide

/-- A scrub that has not begun, and one that has one word left, with a write outstanding. -/
theorem witness_ScrubZeroesMemory :
    (State.reset.card.scrub = some 0 ∧ State.reset.device.st = .init ∧ MemoryInForm State.reset ∧ State.reset.card.ops = [])
    ∧ (let s := State.reset.withCard fun c =>
        { c with mem := [(0x3FFFFFF8, 1)], scrub := some 0x7FFFFFF,
                 ops := [{ id := 7, owner := none, base := 0, len := 8, write := some (List.replicate 8 1), reached := [], seen := [] }] }
       s.card.scrub = some 0x7FFFFFF ∧ s.device.st = .init ∧ MemoryInForm s) := by
  unfold MemoryInForm; decide

theorem witness_ControlWrites :
    live.device.st = .running ∧ TablesGood live ∧ State.reset.device.st = .init ∧ (sized 0x804).device.st = .ready := by
  unfold TablesGood; decide

/-- The sizes 4 and 8 pass, 3 and 9 do not. -/
theorem witness_EnableAttempt :
    (let d := (sized 0x804).device
     d.st = .ready ∧ d.adminSqBase.toNat % 4096 = 0 ∧ (d.adminSizes.extractLsb' 0 4).toNat = 4 ∧ (d.adminSizes.extractLsb' 8 4).toNat = 8)
    ∧ (let d := (sized 0x903).device
       d.st = .ready ∧ (d.adminSizes.extractLsb' 0 4).toNat = 3 ∧ (d.adminSizes.extractLsb' 8 4).toNat = 9)
    ∧ live.device.st ≠ .ready := by decide

theorem witness_StopTaken :
    (let s := withWin 9 .locked 0 (withWin 63 .opened 2 (part3 .opened 0)); s.device.st = .running ∧ TablesGood s)
    ∧ live.device.st = .running ∧ TablesGood live ∧ (∀ p, (live.part p).st = .closed) ∧ (∀ i, (live.slot i).st = .free)
    ∧ live.admin.readOutstanding = false ∧ (∀ i, look live.admin.deferred i = none) ∧ live.link.queue = []
    ∧ (∀ n, (live.tag n).isBusy = false) ∧ live.link.store = [] ∧ (∀ f, (live.fence f).st ≠ .setting)
    ∧ ((withFen 7 .setting live).fence 7).st = .setting := by
  unfold TablesGood; decide

theorem witness_StopEnds :
    powerOnOrBus .stop = false ∧ (∀ b, Instr.stop ≠ .functionReset b) ∧ Instr.stop ≠ .pcieFunctionLevelReset ∧ live.device.st = .running
    ∧ ∃ t, exec .stop live = .next t ∧ t.device.st = .ready :=
  ⟨rfl, fun _ => nofun, nofun, rfl, _, rfl, rfl⟩

/-- R31: a stop with nothing left but a SETTING entry waits for it. -/
theorem test_stop_waits_for_setting_entry : ∃ t, exec .stop (withFen 7 .setting live) = .next t ∧ t.device.st = .stopping := ⟨_, rfl, rfl⟩

theorem witness_AdminRegisterWrites : (sized 5).device.st = .ready ∧ live.device.st ≠ .ready := by decide

theorem witness_NotifyRejected : (inState .stopping).device.st ≠ .running := by decide

/-- CLOSED; FAULTED and CLOSING at index 16 of 16; recorded at index 15; a group with 15 members that waits for the next. -/
theorem witness_SqTailTaken :
    (live.device.st = .running ∧ (live.part 3).parityOk = true ∧ (live.part 3).st = .closed)
    ∧ (((part3 .faulted 0).part 3).st = .faulted ∧ ((part3 .faulted 0).part 3).sqSize ≤ (16#16).toNat)
    ∧ (((part3 .closing 0).part 3).st ≠ .closed ∧ (15#16).toNat < ((part3 .closing 0).part 3).sqSize ∧ (part3 .closing 0).assembling 3 = none)
    ∧ (let s := (part3 .opened 1).withAssembling 3 (some { slot := 31, membersRead := 15, readOutstanding := false })
       s.device.st = .running ∧ (s.part 3).st = .opened ∧ (15#16).toNat < (s.part 3).sqSize
       ∧ s.assembling 3 = some { slot := 31, membersRead := 15, readOutstanding := false } ∧ (s.part 3).sqHead ≠ (15#16).toNat
       ∧ ((s.part 3).sqBase.toNat + 64 * (s.part 3).sqHead) % 64 = 0) := by decide

/-- Index 16 of a ring of 16 entries; head 1 of an empty ring; with and without a slot to abort. -/
theorem witness_BadIndexFaultsPartition :
    (let s := withSlot31 .running (part3 .quiesced 1)
     s.device.st = .running ∧ TablesGood s ∧ (s.part 3).st = .quiesced ∧ (s.part 3).sqSize ≤ (16#16).toNat
     ∧ ¬HeadValid (1#16).toNat (s.part 3).cqHead (s.part 3).cqTail (s.part 3).cqSize)
    ∧ (let s := part3 .opened 0
       s.device.st = .running ∧ TablesGood s ∧ (s.part 3).st = .opened ∧ (s.part 3).sqSize ≤ (16#16).toNat
       ∧ ¬HeadValid (1#16).toNat (s.part 3).cqHead (s.part 3).cqTail (s.part 3).cqSize
       ∧ (∀ i, (s.slot i).st ≠ .free → (s.slot i).partition ≠ 3) ∧ s.deferredAt .partitionQuiesce 3 = none) := by
  unfold TablesGood HeadValid; decide

/-- CLOSED; head 5 up to tail 5; head 6 beyond tail 5 in FAULTED. -/
theorem witness_CqHeadTaken :
    (live.device.st = .running ∧ (live.part 3).parityOk = true ∧ (live.part 3).st = .closed)
    ∧ (let y := (withPart3 fun y => { y with cqTail := 5 }).part 3
       y.parityOk = true ∧ y.st ≠ .closed ∧ HeadValid (5#16).toNat y.cqHead y.cqTail y.cqSize)
    ∧ (let y := (withPart3 fun y => { y with cqTail := 5, st := .faulted }).part 3
       y.parityOk = true ∧ y.st = .faulted ∧ ¬HeadValid (6#16).toNat y.cqHead y.cqTail y.cqSize) := by
  unfold HeadValid; decide

theorem witness_AdminTailTaken :
    State.reset.device.st ≠ .running ∧ (cmd live).device.st = .running ∧ (15#16).toNat < (cmd live).admin.sqSize
    ∧ ((cmd live).admin.sqSize ≤ (16#16).toNat ∧ (cmd live).admin.faulted = false) ∧ (faultedAdmin (cmd live)).admin.faulted = true
    ∧ (sized 0x804).device.st = .ready ∧ (sized 0x804).device.enableOk = true := by
  decide

/-- Head 5 up to index 5; head 6 beyond it; the event ring with room, without room, and with a head beyond the tail. -/
theorem witness_AdminAndEventHeadsTaken :
    (let s := indexed 5 (cmd live)
     s.device.st = .running ∧ HeadValid (5#16).toNat s.admin.cqHead s.poster.index s.admin.cqSize
     ∧ ¬HeadValid (6#16).toNat s.admin.cqHead s.poster.index s.admin.cqSize ∧ s.admin.faulted = false)
    ∧ (faultedAdmin (indexed 5 (cmd live))).admin.faulted = true
    ∧ (let r := ((withRing live).withEvents fun r => { r with tail := 15, lost := 65535 }).events
       r.configured = true ∧ HeadValid (0#16).toNat r.head r.tail r.size ∧ ¬ringSpan r.tail (0#16).toNat r.size + 1 < r.size
       ∧ HeadValid (1#16).toNat r.head r.tail r.size ∧ 0 < r.lost ∧ ringSpan r.tail (1#16).toNat r.size + 1 < r.size)
    ∧ ¬(live.events.configured = true) := by
  unfold HeadValid; decide

/-- One usable entry left, and none. -/
theorem witness_AdminReadIssued :
    (let s := (cmd live).withAdmin fun a => { a with readOutstanding := false, reserved := 14 }
     s.device.st = .running ∧ s.admin.faulted = false ∧ s.admin.readOutstanding = false ∧ s.admin.sqHead ≠ s.admin.sqTail
     ∧ s.admin.reserved + ringSpan s.poster.index s.admin.cqHead s.admin.cqSize + 1 < s.admin.cqSize ∧ s.admin.sqBase.toNat % 64 = 0)
    ∧ (let s := (cmd live).withAdmin fun a => { a with readOutstanding := false, reserved := 15 }
       ¬s.admin.reserved + ringSpan s.poster.index s.admin.cqHead s.admin.cqSize + 1 < s.admin.cqSize) := by decide

theorem witness_CommandsTurnedAway :
    (let s := faultedAdmin (cmd live)
     s.adminTag = some 5 ∧ s.device.st = .running ∧ s.admin.faulted = true
     ∧ decodeCommand (windowOpenBytes.set 0 0x11) = .windowLock 0x1234 true 4)
    ∧ CommandReady (cmd live) 5 := by
  unfold CommandReady TablesGood; decide

/-- Depth 17; occupied; 33 of 32 shared; 97 of 96 reserves; and exactly 96. -/
theorem witness_PartitionOpened :
    ¬(17#8).toNat ≤ 16 ∧ (CommandReady (cmd (withPart3 id)) 5 ∧ ((cmd (withPart3 id)).part 3).st ≠ .closed)
    ∧ (let s := cmd (withPart1 96 live)
       CommandReady s 5 ∧ (s.part 3).st = .closed ∧ s.sharedFree < (33#8).toNat ∧ (1#8).toNat ≤ s.sharedFree
       ∧ 96 < (total fun k : PNum => if (s.part k).st = .closed then 0 else (s.part k).reserve) + (1#8).toNat
       ∧ (total fun k : PNum => if (s.part k).st = .closed then 0 else (s.part k).reserve) + (0#8).toNat ≤ 96) := by
  unfold CommandReady TablesGood; decide

theorem witness_PartitionQuiesced :
    (CommandReady (cmd (part3 .opened 0)) 5 ∧ ((cmd (part3 .opened 0)).part 3).slotsHeld = 0)
    ∧ (let s := cmd (part3 .opened 1); CommandReady s 5 ∧ 0 < (s.part 3).slotsHeld ∧ look s.admin.deferred 0 = none)
    ∧ (let s := full (cmd (part3 .opened 1)); CommandReady s 5 ∧ 0 < (s.part 3).slotsHeld ∧ ∀ i, look s.admin.deferred i ≠ none)
    ∧ CommandReady (cmd (part3 .quiesced 0)) 5 ∧ CommandReady (cmd (part3 .closing 1)) 5 ∧ 16 ≤ (16#8).toNat := by
  unfold CommandReady TablesGood; decide

theorem witness_PartitionResumed :
    CommandReady (cmd (part3 .quiesced 0)) 5
    ∧ (let s := cmd (waiting7 .partitionQuiesce 3 (part3 .quiescing 1))
       CommandReady s 5 ∧ (s.part 3).st = .quiescing ∧ s.deferredAt .partitionQuiesce 3 = some 7
       ∧ look s.admin.deferred 7 = some (deferred9 .partitionQuiesce 3))
    ∧ CommandReady (cmd (part3 .opened 0)) 5 ∧ 16 ≤ (16#8).toNat := by
  unfold CommandReady TablesGood; decide

theorem witness_PartitionClosed :
    CommandReady (cmd (part3 .closing 0)) 5
    ∧ (let s := full (cmd (part3 .faulted 1)); CommandReady s 5 ∧ 0 < (s.part 3).slotsHeld ∧ ∀ i, look s.admin.deferred i ≠ none)
    ∧ (let s := cmd (withWin 9 .locked 0 (withWin 5 .opened 2 (part3 .quiesced 0)))
       CommandReady s 5 ∧ (s.part 3).slotsHeld = 0 ∧ s.pool.waiting = [] ∧ s.deferredAt .partitionClose 3 = none
       ∧ s.deferredAt .partitionQuiesce 3 = none)
    ∧ (let s := cmd (withSlot31 .running (withWin 5 .opened 2 (part3 .opened 1)))
       CommandReady s 5 ∧ 0 < (s.part 3).slotsHeld ∧ look s.admin.deferred 0 = none)
    ∧ (let s := cmd (withSlot31 .posting (waiting7 .partitionQuiesce 3 (withWin 5 .opened 2 (part3 .quiescing 1))))
       CommandReady s 5 ∧ (s.part 3).st = .quiescing ∧ 0 < (s.part 3).slotsHeld ∧ s.deferredAt .partitionQuiesce 3 = some 7
       ∧ look s.admin.deferred 7 = some (deferred9 .partitionQuiesce 3) ∧ (s.slot 31).partition = 3 ∧ (s.slot 31).st = .posting
       ∧ ∀ k ≠ (31 : Fin 32), (s.slot k).st ≠ .free → (s.slot k).partition ≠ 3)
    ∧ 16 ≤ (16#8).toNat := by
  unfold CommandReady TablesGood; decide

/-- A clear flag of 2, an address at half an entry; CLOSED; and CLOSING. -/
theorem witness_CountersReported :
    ¬(2#8).toNat ≤ 1 ∧ ¬(16#64).toNat % 32 = 0 ∧ CommandReady (cmd live) 5 ∧ (live.part 3).st = .closed
    ∧ (let s := cmd (part3 .closing 1); CommandReady s 5 ∧ (s.part 3).st ≠ .closed) ∧ (32#64).toNat % 32 = 0 ∧ (1#8).toNat ≤ 1 := by
  unfold CommandReady TablesGood; decide

theorem witness_DispositionReplaced :
    CommandReady (cmd live) 5 ∧ (live.part 3).st = .closed ∧ CommandReady (cmd (part3 .opened 0)) 5
    ∧ ((cmd (part3 .opened 0)).part 3).st ≠ .closed ∧ ¬(16#8).toNat < 16 ∧ ¬(6#8).toNat ≤ 5 ∧ ¬(3#8).toNat ≤ 2
    ∧ (5#8).toNat ≤ 5 ∧ (2#8).toNat ≤ 2 := by
  unfold CommandReady TablesGood; decide

/-- Window 64, a range one page too long; QUIESCING; sixteen windows owned; window 1 in the way of a writer of partition 4;
and fifteen owned at the end of memory. -/
theorem witness_WindowOpened :
    (¬(64#8).toNat < 64 ∧ ¬(0x1000#64).toNat + (0x40000000#64).toNat ≤ (cmd live).cardSize)
    ∧ (let s := cmd (part3 .quiescing 0); CommandReady s 5 ∧ ¬((s.part 3).st = .opened ∨ (s.part 3).st = .quiesced))
    ∧ (let s := cmd (withWindows [0, 1, 2, 3, 4, 5, 6, 7, 8, 9, 10, 11, 12, 13, 14, 15] (part3 .opened 0))
       CommandReady s 5 ∧ (s.window 63).st = .free ∧ s.windowsOwned 3 = 16)
    ∧ (let s := cmd ((withWindows [1, 2] (part3 .opened 0)).withPart 4 fun _ => Partition.opening 4 4 1 0 1 0 0)
       CommandReady s 5 ∧ s.windowsOwned 4 = 0 ∧ s.conflict 4 0x1000 0x1000 .write = some 1)
    ∧ (let s := cmd (withWindows [1, 2, 3, 4, 5, 6, 7, 8, 9, 10, 11, 12, 13, 14, 15] (part3 .opened 0))
       CommandReady s 5 ∧ s.windowsOwned 3 = 15 ∧ s.conflict 3 0 0x40000000 .readWrite = none ∧ 0 + (0x40000000#64).toNat ≤ s.cardSize) := by
  unfold CommandReady TablesGood; decide

theorem witness_WindowLocked :
    CommandReady (cmd (withWin 63 .opened 2 live)) 5 ∧ ((cmd (withWin 63 .opened 2 live)).window 63).st = .opened
    ∧ ((cmd (withWin 63 .retiring 2 live)).window 63).st = .retiring ∧ 64 ≤ (64#8).toNat ∧ (63#8).toNat = 63 := by
  unfold CommandReady TablesGood; decide

theorem witness_WindowClosed :
    CommandReady (cmd (withWin 63 .retiring 1 live)) 5 ∧ CommandReady (cmd (withWin 63 .locked 1 live)) 5
    ∧ CommandReady (cmd (withWin 63 .opened 0 live)) 5
    ∧ (let s := full (cmd (withWin 63 .opened 1 live)); CommandReady s 5 ∧ 0 < (s.window 63).refs ∧ ∀ i, look s.admin.deferred i ≠ none)
    ∧ (let s := cmd (withWin 63 .opened 1 live); CommandReady s 5 ∧ 0 < (s.window 63).refs ∧ look s.admin.deferred 0 = none) := by
  unfold CommandReady TablesGood; decide

/-- The last 4 KiB of memory; a record that ends where the fence begins does not overlap it, one inside does. -/
theorem witness_FenceSet :
    ¬(8#8).toNat < 8 ∧ CommandReady (lockedList (cmd live)) 5
    ∧ (CommandReady (withFen 7 .active (cmd live)) 5 ∧ ((withFen 7 .active (cmd live)).fence 7).st ≠ .empty)
    ∧ (let s := withRecord (cmd live)
       CommandReady s 5 ∧ s.fences.locked = false ∧ (s.fence 7).st = .empty ∧ (s.overlapping 0x201000 0x1000).length = 0
       ∧ 0 < (s.overlapping 0x200000 0x1000).length ∧ look s.admin.deferred 0 = none ∧ (0x3FFFF000#64).toNat + 0x1000 ≤ s.cardSize)
    ∧ (let s := full (withRecord (cmd live)); CommandReady s 5 ∧ ∀ i, look s.admin.deferred i ≠ none) := by
  unfold CommandReady TablesGood; decide

theorem witness_FenceClearedAndLocked :
    CommandReady (withFen 7 .active (cmd live)) 5 ∧ ((withFen 7 .active (cmd live)).fence 7).st = .active
    ∧ CommandReady (withFen 7 .setting (cmd live)) 5 ∧ CommandReady (lockedList (withFen 7 .active (cmd live))) 5
    ∧ (lockedList (withFen 7 .active (cmd live))).fences.locked = true ∧ 8 ≤ (8#8).toNat := by
  unfold CommandReady TablesGood; decide

/-- An access whose last byte is the fence's first, and one that ends just below it. -/
theorem witness_FenceCheck :
    (let s := withFen 7 .setting live
     (s.fence 7).st ≠ .empty ∧ 0x200801 < (s.fence 7).cardBase + (s.fence 7).length ∧ (s.fence 7).cardBase < 0x200801 + 2048
     ∧ ∀ j < (7 : FNum), (s.fence j).st = .empty)
    ∧ (let s := withFen 7 .setting live
       ∀ f : FNum, ¬((s.fence f).st ≠ .empty ∧ 0x200800 < (s.fence f).cardBase + (s.fence f).length ∧ (s.fence f).cardBase < 0x200800 + 2048)) := by
  decide

theorem witness_PoolShareSet :
    ¬(9#8).toNat ≤ (8#8).toNat ∧ CommandReady (cmd (part3 .opened 0)) 5
    ∧ (let s := (cmd (part3 .quiesced 0)).withPool fun q => { q with free := 10 }
       CommandReady s 5 ∧ s.sharedFree + ((s.part 3).reserve - (s.part 3).held) < (11#8).toNat)
    ∧ (let s := cmd (withPart1 86 (part3 .quiesced 0))
       CommandReady s 5 ∧ (11#8).toNat ≤ s.sharedFree + ((s.part 3).reserve - (s.part 3).held) ∧ s.otherReserves 3 = 86
       ∧ s.pool.waiting = []) := by
  unfold CommandReady TablesGood; decide

/-- Shared free just below and at watermark 64, and a watermark of 0. -/
theorem witness_WatermarkSet :
    (let s := (cmd live).withPool fun q => { q with free := 63 }; CommandReady s 5 ∧ s.pool.low = false ∧ s.sharedFree < (64#8).toNat)
    ∧ (let s := (cmd live).withPool fun q => { q with free := 64 }; CommandReady s 5 ∧ s.pool.low = false ∧ (64#8).toNat ≤ s.sharedFree)
    ∧ (let s := (cmd live).withPool fun q => { q with free := 0, low := true }
       CommandReady s 5 ∧ s.pool.low = true ∧ (0#8).toNat ≤ s.sharedFree ∧ s.sharedFree < (1#8).toNat)
    ∧ 64 < (65#8).toNat := by
  unfold CommandReady TablesGood; decide

theorem witness_VectorConfigured :
    CommandReady (cmd live) 5 ∧ ¬(18#8).toNat < 18 ∧ ¬(65#8).toNat ≤ 64
    ∧ ((17#8).toNat < 18 ∧ (1#8).toNat ≤ 1 ∧ 1 ≤ (64#8).toNat ∧ (64#8).toNat ≤ 64 ∧ (4#64).toNat % 4 = 0) := by
  unfold CommandReady TablesGood; decide

theorem witness_EventRingConfigured :
    CommandReady (cmd live) 5 ∧ (cmd live).events.lost = 0 ∧ (2048#16).toNat ∉ [16, 32, 64, 128, 256, 512, 1024]
    ∧ (let s := (cmd live).withEvents fun r => { r with lost := 65535 }
       CommandReady s 5 ∧ 0 < s.events.lost ∧ (1024#16).toNat ∈ [16, 32, 64, 128, 256, 512, 1024] ∧ (4096#64).toNat % 4096 = 0) := by
  unfold CommandReady TablesGood; decide

theorem witness_TimeoutReplaced : CommandReady (cmd live) 5 ∧ 255 < (256#16).toNat ∧ 1 ≤ (255#16).toNat ∧ (255#16).toNat ≤ 255
    ∧ live.device.st ≠ .init := by
  unfold CommandReady TablesGood; decide

/-- A MARK record with flags. -/
def mark (flags : BitVec 8) : SubRecord :=
  { op := 0, flags, tag := 77, length := 0, hostAddr := 0, primaryWindow := 0, secondaryWindow := 0, reservedLow := 0,
    primaryOffset := 0, secondaryOffset := 0, pattern := 0, reservedHigh := 0 }

/-- A record of operation `op` for 2047 bytes at offset 1 of window 63. -/
def record (op : BitVec 8) : SubRecord := { mark 0 with op, length := 2047, primaryWindow := 63, primaryOffset := 1 }

/-- Partition 3's windows 63 and 62, both over the same 64 KiB. -/
def bothWindows (s : State) : State := withWin 62 .locked 0 (withWin 63 .opened 0 s)

/-- The range of the records' primary operand. -/
def range63 : CardRange := ⟨0x200001, 2047⟩

/-- Window 64; a RETIRING window; another owner; one byte too long; no write granted; and a range that just fits. -/
theorem witness_OperandsChecked :
    64 ≤ (⟨64, 0, true⟩ : CardOperand).window ∧ ((withWin 63 .retiring 1 live).window 63).st = .retiring
    ∧ (let y := (withWin 63 .locked 1 live).window 63
       y.st = .locked ∧ y.owner ≠ some 4 ∧ y.owner = some 3 ∧ ¬0xFFF0 + 17 ≤ y.length ∧ 0xFFF0 + 16 ≤ y.length ∧ y.access = .readWrite)
    ∧ ((withWindows [63] live).window 63).access = .read := by decide

/-- Operation 6; flags 8; a MARK that names window 1; a length of 16777217 and one of 16777216 up to 2^64; and operands that a FREE
window fails and that the records of `record` pass. -/
theorem witness_StartChecked :
    6 ≤ (record 6).op.toNat ∧ 8 ≤ (mark 8).flags.toNat ∧ ¬({ mark 7 with primaryWindow := 1 } : SubRecord).primaryWindow = 0
    ∧ ¬({ record 4 with length := 16777217 } : SubRecord).length.toNat ≤ 16777216
    ∧ (0xFFFFFFFFFF000000#64).toNat + (16777216#32).toNat ≤ 2 ^ 64
    ∧ (mark 7).op.toNat = 0 ∧ opOf (record 4) = some .fill ∧ (record 3).op.toNat = 3
    ∧ live.checkOperand 3 2047 ⟨63, 1, true⟩ = .error (.window, 1)
    ∧ (bothWindows live).checkOperand 3 2047 ⟨63, 1, true⟩ = .ok (63, range63)
    ∧ (bothWindows live).checkOperand 3 2047 ⟨62, 2047, false⟩ = .ok (62, ⟨0x2007FF, 2047⟩)
    ∧ (bothWindows live).checkOperand 3 2047 ⟨62, 2048, false⟩ = .ok (62, ⟨0x200800, 2047⟩) := by
  refine ⟨by decide, by decide, by decide, by decide, by decide, rfl, rfl, rfl, rfl, rfl, rfl, rfl⟩

theorem witness_GroupAnswered :
    ((withPart3 fun y => { y with faultCause := some .cqIndex, cqTail := 15 }).part 3).faultCause = some .cqIndex
    ∧ ((withPart3 fun y => { y with cqTail := 15 }).part 3).faultCause ≠ some .cqIndex := by decide

/-- Partition 3 with fifteen records waiting, which the pointer served last. -/
def waiting3 : State := (withPart3 fun y => { y with sqTail := 15 }).withSched fun c => { c with pointer := 3 }

/-- The pointer's own partition is the last of the sixteen. -/
theorem witness_PartitionServed :
    waiting3.device.st = .running ∧ TablesGood waiting3 ∧ (3 : PNum).val = (waiting3.sched.pointer.val + 1 + 15) % 16
    ∧ Eligible waiting3 3
    ∧ (∀ j < 15, ∀ q : PNum, q.val = (waiting3.sched.pointer.val + 1 + j) % 16 → ¬Eligible waiting3 q)
    ∧ (waiting3.slot 0).st = .free ∧ ((waiting3.part 3).sqBase.toNat + 64 * (waiting3.part 3).sqHead) % 64 = 0 := by
  refine ⟨rfl, by unfold TablesGood; decide, rfl, by unfold Eligible; decide, fun j hj q hq he => ?_, rfl, by decide⟩
  have h3 : ∀ q : PNum, (waiting3.part q).st = .opened → q = 3 := by decide
  have hq3 := h3 q he.1
  subst hq3
  have hp : waiting3.sched.pointer.val = 3 := rfl
  have h : (3 : PNum).val = 3 := rfl
  omega

/-- A request that nobody owns any more. -/
def orphan : ReadRequest := { requester := .orphan, addr := 0, len := 2, place := 0 }

theorem witness_ReadRequestIssued :
    (let s := live.withLink fun l => { l with queue := [orphan], tags := (Vector.replicate 64 (.quarantined 5)).set 63 .free }
     s.device.st = .running ∧ s.link.queue = [orphan] ∧ s.tag 63 = .free ∧ ∀ m < (63 : TNum), s.tag m ≠ .free)
    ∧ (let s := (inState .stopping).withLink fun l => { l with queue := [orphan], tags := Vector.replicate 64 (.quarantined 5) }
       s.device.st = .stopping ∧ ∀ n, s.tag n ≠ .free) := by decide

/-- A chunk of slot 31. -/
def chunkOf (k : Nat) (phase : Phase) (b : Option BNum) (requests : Nat) : ChunkCtx := newChunk k 2048 phase b requests

/-- Slot 31 of the open partition 3 reads chunk 8191 with `m` requests left, of which one is on tag 63, and a lower chunk. -/
def reader (m : Nat) : State :=
  (busy63 { requester := .copyIn 31 8191, addr := 0, len := 2, place := 1536 } (withSlot31 .running (part3 .opened 1))).withSlot 31
    fun x => { x with chunks := [chunkOf 8190 .reading (some 126) 4, chunkOf 8191 .reading (some 127) m] }

theorem witness_PartReturned :
    (let s := busy63 orphan live
     s.device.st ≠ .halted ∧ s.tag 63 = .busy orphan [none, none] 7 32000 ∧ (placeBytes [none, none] 0 [1])[1]? = some none
     ∧ (s.tag 62).isBusy = false)
    ∧ (∀ m ∈ [0, 1], let s := reader (m + 1)
       s.device.st = .running ∧ TablesGood s ∧ (s.part (s.slot 31).partition).st ≠ .closed
       ∧ s.tag 63 = .busy { requester := .copyIn 31 8191, addr := 0, len := 2, place := 1536 } (List.replicate 2 none) 7 32000
       ∧ (s.slot 31).chunk 8191 = some (chunkOf 8191 .reading (some 127) (m + 1))
       ∧ (s.slot 31).chunks.find? (fun c => decide (c.phase ≠ .writing)) = some (chunkOf 8190 .reading (some 126) 4))
    ∧ ((cmd live).device.st ≠ .halted ∧ (cmd live).adminTag = some 5
       ∧ (cmd live).tag 5 = .busy { requester := .admin, addr := 0, len := 64, place := 0 } (List.replicate 64 none) 32000 32000) := by
  unfold TablesGood; decide

/-- Slot 31 assembles a group of partition 3: `members` records read, a record read on tag 63, sq_head 14. -/
def assembler (members tail : Nat) : State :=
  ((busy63 { requester := .record 31, addr := 0, len := 64, place := 0 }
    (withPart3 fun y => { y with sqHead := 14, sqTail := tail, slotsHeld := 1, cqReserved := 1 })).withSlot 31 fun x =>
      { x with st := .assembling, partition := 3, members := List.replicate members (mark 1) }).withAssembling 3
        (some { slot := 31, membersRead := members, readOutstanding := true })

/-- Slot 31 waits for the only record of its group; partition 3 may take buffer 0, or with limit 0 none. -/
def single (limit : Nat) : State :=
  bothWindows ((assembler 0 0).withPart 3 fun y => { y with reserve := min 8 limit, limit })

/-- The fifteenth member, with sq_tail at the next entry and beyond it. -/
theorem witness_RecordReturned :
    (let s := assembler 14 15
     s.device.st = .running ∧ TablesGood s ∧ (mark 7).encode.length = 64 ∧ (SubRecord.decode (mark 7).encode).cont = true
     ∧ s.tag 63 = .busy { requester := .record 31, addr := 0, len := 64, place := 0 } (List.replicate 64 none) 7 32000
     ∧ (s.slot 31).st = .assembling ∧ s.assembling 3 = some { slot := 31, membersRead := 14, readOutstanding := true } ∧ 14 + 1 < 16
     ∧ (s.part 3).sqTail = ((s.part 3).sqHead + 1) % (s.part 3).sqSize)
    ∧ (let y := (assembler 14 0).part 3
       y.sqTail ≠ (y.sqHead + 1) % y.sqSize ∧ (y.sqBase.toNat + 64 * ((y.sqHead + 1) % y.sqSize)) % 64 = 0) := by
  unfold TablesGood; decide

/-- A lone record with BARRIER beside an occupied slot; and one record of each operation, which passes its start. -/
theorem witness_RecordReturnedAlone :
    (let s := (single 16).withSlot 0 fun x => { x with st := .running, partition := 3 }
     (s.slot 31).members = [] ∧ (mark 2).cont = false ∧ (mark 2).barrierFlag = true ∧ (s.slot 0).st ≠ .free ∧ (s.slot 0).partition = 3)
    ∧ (let s := single 16
       s.device.st = .running ∧ TablesGood s ∧ (s.slot 31).st = .assembling
       ∧ s.slot 31 = { Slot.free with st := .assembling, partition := 3, firstIndex := (s.slot 31).firstIndex }
       ∧ (s.part 3).st ≠ .closed ∧ (s.part 3).held < (s.part 3).reserve ∧ (s.buffer 0).owner = none ∧ (∀ f, (s.fence f).st = .empty))
    ∧ (let y := (single 0).part 3; ¬(y.held < y.reserve ∨ y.held < y.limit)) := by
  unfold TablesGood; decide

theorem witness_RecordReturnedStarts :
    (single 16).startCheck 3 (record 1) = .ok { op := .copyIn, primary := some range63, secondary := none, refs := [63] }
    ∧ (single 0).startCheck 3 (record 1) = .ok { op := .copyIn, primary := some range63, secondary := none, refs := [63] }
    ∧ (single 16).startCheck 3 (record 2) = .ok { op := .copyOut, primary := some range63, secondary := none, refs := [63] }
    ∧ (single 16).startCheck 3 { record 3 with secondaryWindow := 62, secondaryOffset := 2048 }
        = .ok { op := .move, primary := some range63, secondary := some ⟨0x200800, 2047⟩, refs := [63, 62] }
    ∧ (single 16).startCheck 3 (record 4) = .ok { op := .fill, primary := some range63, secondary := none, refs := [63] }
    ∧ (single 16).startCheck 3 (record 5) = .ok { op := .digest, primary := some range63, secondary := none, refs := [63] } :=
  ⟨rfl, rfl, rfl, rfl, rfl, rfl⟩

/-- A MARK; a record with flags 8; a FILL and a DIGEST up to the first byte of fence 6; and a sixteenth record with CONT. -/
theorem witness_MarkGroupAnswered :
    (let s := single 16
     s.device.st = .running ∧ TablesGood s ∧ (mark 4).encode.length = 64 ∧ SubRecord.decode (mark 4).encode = mark 4
     ∧ s.slot 31 = { Slot.free with st := .assembling, partition := (s.slot 31).partition, firstIndex := (s.slot 31).firstIndex }
     ∧ s.assembling 3 = some { slot := 31, membersRead := 0, readOutstanding := true } ∧ (s.part 3).faultCause = none
     ∧ s.link.queue = [] ∧ s.link.placeWaiters = [])
    ∧ (let s := assembler 15 0
       TablesGood s ∧ (s.slot 31).st = .assembling ∧ (mark 1).cont = true
       ∧ s.assembling 3 = some { slot := 31, membersRead := 15, readOutstanding := true } ∧ (s.part 3).faultCause = none)
    ∧ (let s := withFen 7 .setting (withFen 6 .active (single 16))
       (s.fence 6).st ≠ .empty ∧ (s.fence 6).cardBase < 0x200802 + min 2048 (record 4).length.toNat
       ∧ 0x200802 < (s.fence 6).cardBase + (s.fence 6).length ∧ ∀ j < (6 : FNum), (s.fence j).st = .empty) := by
  unfold TablesGood; decide

theorem witness_MarkGroupAnsweredStarts :
    (single 16).startCheck 3 (mark 12) = .error (.malformed, 2)
    ∧ (∀ x ∈ [((4 : BitVec 8), Op.fill), (5, .digest)],
        (withFen 7 .setting (withFen 6 .active (single 16))).startCheck 3 { record x.1 with primaryOffset := 0x802 }
          = .ok { op := x.2, primary := some ⟨0x200802, 2047⟩, secondary := none, refs := [63] }) := by
  refine ⟨rfl, ?_⟩
  rintro x (_ | ⟨_, _ | ⟨_, h⟩⟩)
  · rfl
  · rfl
  · cases h

theorem witness_ReadsFail :
    (let s := cmd live
     s.device.st = .running ∧ (∃ got, s.tag 5 = .busy { requester := .admin, addr := 0, len := 64, place := 0 } got 32000 32000)
     ∧ s.admin.faulted = false ∧ s.admin.readOutstanding = true)
    ∧ (let s := assembler 1 0
       TablesGood s ∧ (s.slot 31).st = .assembling ∧ (s.part 3).st = .opened
       ∧ s.assembling 3 = some { slot := 31, membersRead := 1, readOutstanding := true }
       ∧ ∀ j, (s.slot j).partition = 3 → (s.slot j).st ≠ .waitOrder)
    ∧ (busy63 orphan live).tag 63 = .busy orphan [none, none] 7 32000
    ∧ (live.withTag 63 fun _ => .quarantined 5).tag 63 = .quarantined 5 := by
  unfold TablesGood; exact ⟨⟨by decide, ⟨_, rfl⟩, by decide⟩, by decide, by decide, by decide⟩

/-- A card access of slot 31. -/
def accessOf (id base len : Nat) (write : Option (List Byte)) (k : Nat) : CardOp :=
  { id, owner := some (31, k), base, len, write, reached := [], seen := [] }

/-- Slot 31 runs a member of 4096 bytes with chunks `chunks` and card accesses `ops`. -/
def runner (r : SubRecord) (chunks : List ChunkCtx) (ops : List CardOp) (m : MemberCtx) : State :=
  (((part3 .opened 1).withSlot 31 fun x =>
    { x with st := .running, partition := 3, members := [r], ctx := some m, chunks }).withCard fun c => { c with ops, nextOp := 99 })

/-- The context of a member of two chunks that have both started. -/
def bothStarted : MemberCtx :=
  { primary := some ⟨0x200000, 4096⟩, secondary := some ⟨0x300000, 4096⟩, refs := [63, 62], count := 2, next := 2, doneChunks := 0,
    doneAhead := [], crc := 0 }

/-- A MOVE of 4096 bytes. -/
def move : SubRecord := { mark 0 with op := 3, length := 4096 }

/-- Both chunks of a MOVE read; the read of chunk 1, the last 2 KiB below 4 GiB, is access 7. -/
def mover : State :=
  stored [{ kind := .message 0, addr := 0, bytes := [1, 2, 3, 4] }]
    (runner move [chunkOf 0 .reading (some 0) 0, chunkOf 1 .reading (some 1) 0] [accessOf 7 0xFFFFF800 2048 none 1] bothStarted)

/-- Access 7's record, counted by the fences of the list, each of them SETTING with `n` accesses outstanding. -/
def counted (l : List FNum) (n : Nat) (s : State) : State :=
  (l.foldl (fun s f => s.withFence f fun _ =>
    { st := .setting, cardBase := 0xFFFFF000, length := 0x1000, outstanding := some n, setTag := some 9 }) s).withFences fun u =>
      { u with records := [{ id := 7, slot := 31, chunk := 0, base := 0xFFFFF800, len := 2048, countedBy := l }] }

/-- A record of `op` for 8144 bytes: three full chunks, and chunk 3 of 2000 bytes. -/
def lastRecord (op : BitVec 8) : SubRecord := { mark 0 with op, length := 8144, hostAddr := 0x7000 }

/-- The context of its member when only chunk 3 is left. -/
def lastCtx : MemberCtx :=
  { primary := some ⟨0x200000, 8144⟩, secondary := some ⟨0x300000, 8144⟩, refs := [63], count := 4, next := 4, doneChunks := 3,
    doneAhead := [], crc := 0 }

/-- Slot 31 runs chunk 3 of such a member, the last of its group, through a window that retires with a second reference. -/
def lastRunner (op : BitVec 8) (phase : Phase) (buffer : Option BNum) (requests : Nat) (ops : List CardOp) : State :=
  withWin 63 .retiring 2 (runner (lastRecord op) [newChunk 3 2000 phase buffer requests] ops lastCtx)

theorem lastRunner_members (op : BitVec 8) (phase : Phase) (buffer : Option BNum) (requests : Nat) (ops : List CardOp) :
    let s := lastRunner op phase buffer requests ops
    MemberRuns s 31 (lastRecord op) lastCtx ∧ LastChunk s 31 (lastRecord op) lastCtx (newChunk 3 2000 phase buffer requests)
    ∧ s.pool.waiting = [] ∧ s.link.queue = [] ∧ s.link.placeWaiters = [] := by
  have h : MemberRuns (lastRunner op phase buffer requests ops) 31 (lastRecord op) lastCtx := ⟨rfl, rfl, rfl, rfl, rfl⟩
  refine ⟨h, ⟨h, rfl, rfl, rfl, rfl, rfl, rfl, ?_, ?_, ?_, nofun⟩, rfl, rfl, rfl⟩
  · show 2048 * 3 < 8144; decide
  · show 8144 ≤ 2048 * 4; decide
  · intro w hw
    rw [List.mem_singleton.mp hw]
    exact .inr (show 1 < 2 by decide)

/-- The read of chunk 3, which fence 5 counts among others, with an empty write store; the members are those of
`lastRunner_members`. -/
theorem witness_CardReadReturnedInTurn (op : BitVec 8) (b : Option BNum) :
    let o := accessOf 7 0x9000 2000 none 3
    let s := counted [5] 2 (lastRunner op .reading b 0 [o])
    let c := newChunk 3 2000 .reading b 0
    s.device.st = .running ∧ s.card.scrub = none ∧ s.card.find 7 = some o ∧ s.card.ops = [o] ∧ s.card.marks = []
    ∧ (s.fences.records.find? (fun r => decide (r.id = 7))).map AccessRecord.countedBy = some [5]
    ∧ (s.fence 5).outstanding = some (0 + 2) ∧ (s.slot 31).chunk 3 = some c ∧ c.size = o.len ∧ s.link.store = []
    ∧ (s.slot 31).chunks.find? (fun c => decide (c.phase ≠ .writing)) = some c ∧ (s.slot 31).chunks = [c] :=
  ⟨rfl, rfl, rfl, rfl, rfl, rfl, rfl, rfl, rfl, rfl, rfl, rfl⟩

/-- Its tables are good and no fence stops its write: no other chunk is HELD. -/
theorem witness_CardReadReturnedTables :
    TablesGood (counted [5] 2 (lastRunner 2 .reading (some 9) 0 [accessOf 7 0x9000 2000 none 3]))
    ∧ TablesGood (counted [5] 2 (lastRunner 3 .reading (some 9) 0 [accessOf 7 0x9000 2000 none 3]))
    ∧ TablesGood (counted [5] 2 (lastRunner 5 .reading none 0 [accessOf 7 0x9000 2000 none 3]))
    ∧ FenceClear (counted [5] 2 live) (0x200000 + 2048 * 3) 2000 := by
  refine ⟨by unfold TablesGood; decide, by unfold TablesGood; decide, by unfold TablesGood; decide, fun f => ?_⟩
  have others : ∀ f ≠ (5 : FNum), ((counted [5] 2 live).fence f).st = .empty := by decide
  by_cases h : f = 5
  · subst h
    exact .inr (.inr (show 0x200000 + 2048 * 3 + 2000 ≤ 0xFFFFF000 by decide))
  · exact .inl (others f h)

/-- Fence 6 stops the write of chunk 3, of a MOVE and of a COPY_IN; and every data place is taken. -/
theorem witness_LastChunkStopped (op : BitVec 8) (requests : Nat) (ops : List CardOp) :
    let s := withFen 7 .setting (withFen 6 .active (lastRunner op .reading (some 9) requests ops))
    LastChunk s 31 (lastRecord op) lastCtx (newChunk 3 2000 .reading (some 9) requests) ∧ FenceStops s (0x200000 + 2048 * 3) 2000 6
    ∧ 64 ≤ ((List.replicate 64 ({ kind := .data, addr := 0, bytes := [1] } : PostedWrite)).filter fun w => decide (w.kind = .data)).length := by
  have h : FenceStops (withFen 7 .setting (withFen 6 .active live)) (0x200000 + 2048 * 3) 2000 6 := by unfold FenceStops; decide
  exact ⟨(lastRunner_members op .reading (some 9) requests ops).2.1, h, by simp⟩

/-- A record of `op` for `n` full chunks. -/
def fullRecord (op : BitVec 8) (n : Nat) : SubRecord := { mark 0 with op, length := BitVec.ofNat 32 (2048 * n), hostAddr := 0x7000 }

/-- Slot 31 runs such a member with chunk 3 in turn, `others` behind it, chunk `next` the next to start, and the members `more` after it;
window 63 retires with a second reference, and partition 3 holds 4 buffers of the 4 it may. -/
def midRunner (op : BitVec 8) (n next : Nat) (others : List ChunkCtx) (buffer : Option BNum) (more : List SubRecord) : State :=
  (((withWin 63 .retiring 2 (runner (fullRecord op n) (chunkOf 3 .reading buffer 0 :: others) [accessOf 7 0x9000 2048 none 3]
    { lastCtx with count := n, next })).withPart 3 fun y => { y with reserve := 0, held := 4, limit := 4 }).withSlot 31 fun x =>
      { x with members := x.members ++ more }).withBuffer 0 fun x => { x with owner := some 4 }

/-- Chunks 4, 5 and 6 behind it with three more to start; chunk 4 behind it with none or two to start; and nothing behind it. -/
theorem witness_CardReadReturnedMidMember :
    ∀ x ∈ [((2 : BitVec 8), some (9 : BNum)), (5, none)], ∀ y ∈ [(10, 7, [4, 5, 6]), (5, 5, [4]), (7, 5, [4]), (4, 4, [])],
      let s := midRunner x.1 y.1 y.2.1 (y.2.2.map fun k => chunkOf k .reading none 0) x.2 []
      let c := chunkOf 3 .reading x.2 0
      s.device.st = .running ∧ TablesGood s ∧ s.card.scrub = none ∧ s.card.marks = [] ∧ (s.slot 31).chunk 3 = some c ∧ c.size = 2048
      ∧ TurnInOrder s 31 (fullRecord x.1 y.1) { lastCtx with count := y.1, next := y.2.1 } c ∧ s.pool.waiting = [] ∧ s.link.queue = []
      ∧ (s.slot 31).chunks.filter (fun d => decide (d.chunk ≠ 3)) = y.2.2.map (fun k => chunkOf k .reading none 0)
      ∧ FenceClear s (0x200000 + 2048 * y.2.1) 2048
      ∧ (let u := s.withBufferBack 9 3; MayTake u 3 ∧ LowestFree u 1 ∧ ¬MayTake (u.withBufferGranted 1 31 3) 3) := by
  unfold TablesGood TurnInOrder MemberRuns TurnOf FenceClear MayTake LowestFree; decide

/-- Behind the member a MARK that is the last, and a record with flags 8. -/
theorem witness_NextAnswers (op : BitVec 8) (buffer : Option BNum) :
    NextAnswers (midRunner op 4 4 [] buffer [mark 1]) 31 (mark 1) { status := .ok, detail := 0, failedMember := 0 }
    ∧ NextAnswers (midRunner op 4 4 [] buffer [mark 12, mark 1]) 31 (mark 12) { status := .malformed, detail := 2, failedMember := 1 }
    ∧ ∀ w ∈ lastCtx.refs, ((midRunner op 4 4 [] buffer [mark 1]).window w).st ≠ .retiring
        ∨ lastCtx.refs.count w < ((midRunner op 4 4 [] buffer [mark 1]).window w).refs := by
  refine ⟨⟨rfl, .inr ⟨⟨_, rfl, rfl⟩, rfl, rfl⟩⟩, ⟨rfl, .inl ⟨rfl, rfl⟩⟩, ?_⟩
  intro w hw
  rw [List.mem_singleton.mp hw]
  exact .inr (show 1 < 2 by decide)

/-- The last request of chunk 3 of a COPY_IN, on tag 63. -/
theorem witness_PartReturnedInTurn :
    let s := busy63 { requester := .copyIn 31 3, addr := 0, len := 2, place := 1536 } (lastRunner 1 .reading (some 9) 1 [])
    let c := newChunk 3 2000 .reading (some 9) 1
    s.device.st = .running ∧ TablesGood s ∧ (s.part (s.slot 31).partition).st ≠ .closed ∧ (s.slot 31).chunk 3 = some c ∧ c.requests = 0 + 1
    ∧ TurnOf s 31 c ∧ FenceClear s (0x200000 + 2048 * 3) 2000 := by
  unfold TablesGood TurnOf FenceClear; decide

/-- The last two bytes of chunk data, a slot that waits for its data place, and 63 data writes behind; a barrier group in WAIT_ORDER
beside the slot whose completion goes out. -/
theorem witness_PostedWriteIssuedOn :
    (let w : PostedWrite := { kind := .data, addr := 0x10FE, bytes := [3, 4] }
     let rest := List.replicate 63 w
     w.bytes.length ≤ min 256 (256 - w.addr.toNat % 256) ∧ (rest.filter fun w => decide (w.kind = .data)).length < 64
     ∧ (31 : SNum) ∉ ([5] : List SNum) ∧ TablesGood (lastRunner 2 .held (some 9) 0 []))
    ∧ ∀ r ∈ [mark 2, record 4],
      let s := ((bothWindows (part3 .opened 2)).withSlot 4 fun x => { x with st := .waitOrder, partition := 3, members := [r], barrier := true })
      let s := withSlot31 .posting s
      TablesGood s ∧ (s.slot 4).st = .waitOrder ∧ (s.slot 4).partition = 3 ∧ (s.part 3).faultCause ≠ some .cqIndex
      ∧ (∀ k, k ≠ (31 : SNum) → k ≠ 4 → (s.slot k).st ≠ .free → (s.slot k).partition ≠ 3)
      ∧ (s.slot 4).abort = none ∧ (s.slot 4).verdict = none ∧ (s.slot 4).ctx = none ∧ (s.slot 4).chunks = [] ∧ (s.slot 4).members = [r]
      ∧ (s.slot 4).current = 0 ∧ FenceClear s 0x200001 2047 := by
  unfold TablesGood FenceClear; decide

theorem witness_BarrierGroupStarts :
    (bothWindows (part3 .opened 2)).startCheck 3 (mark 2) = .ok { op := .mark, primary := none, secondary := none, refs := [] }
    ∧ (bothWindows (part3 .opened 2)).startCheck 3 (record 4)
        = .ok { op := .fill, primary := some range63, secondary := none, refs := [63] } := ⟨rfl, rfl⟩

/-- A read that fences 5 and 7 count among others, and one that is fence 7's last. -/
theorem witness_CardReadReturned :
    let o := accessOf 7 0xFFFFF800 2048 none 1
    ∀ x ∈ [(([5, 7] : List FNum), 2), ([7], 1)], let s := waiting7 .fenceSet 7 (counted x.1 x.2 mover)
      s.device.st = .running ∧ s.link.store ≠ [] ∧ TablesGood s ∧ s.card.scrub = none ∧ s.card.find o.id = some o ∧ s.card.ops = [o]
      ∧ o.write = none ∧ o.owner = some (31, 1) ∧ o.seen = [] ∧ o.base + o.len ≤ 2 ^ 32 ∧ s.card.marks = []
      ∧ (s.fences.records.find? (fun r => decide (r.id = 7))).map AccessRecord.countedBy = some x.1 ∧ x.1.Nodup
      ∧ (∀ f ∈ x.1, (s.fence f).st = .setting ∧ (s.fence f).outstanding = some x.2 ∧ (s.fence f).setTag ≠ none)
      ∧ s.deferredAt .fenceSet 7 = some 7 ∧ look s.admin.deferred 7 = some (deferred9 .fenceSet 7)
      ∧ (s.slot 31).chunk 1 = some (chunkOf 1 .reading (some 1) 0)
      ∧ (s.slot 31).chunks.find? (fun c => decide (c.phase ≠ .writing)) = some (chunkOf 0 .reading (some 0) 0) := by
  unfold TablesGood; decide

/-- A card read of slot 31, and a COPY_IN request of slot 31 on tag 63. -/
theorem witness_MembersFail :
    (let o := accessOf 7 0xFFFFF800 2048 none 1
     mover.device.st = .running ∧ TablesGood mover ∧ (mover.slot 31).st = .running ∧ (mover.slot 31).verdict = none
     ∧ (mover.slot 31).abort = none ∧ (chunkOf 1 .reading (some 1) 0).discard = false ∧ mover.pool.waiting = []
     ∧ (mover.slot 31).chunks.length ≤ 4 ∧ mover.card.find o.id = some o ∧ o.write = none ∧ o.owner = some (31, 1))
    ∧ ((reader 2).device.st = .running ∧ TablesGood (reader 2) ∧ ((reader 2).slot 31).st = .running ∧ ((reader 2).slot 31).verdict = none
       ∧ (reader 2).pool.waiting = [] ∧ ((reader 2).slot 31).chunks.length ≤ 4
       ∧ (reader 2).tag 63 = .busy { requester := .copyIn 31 8191, addr := 0, len := 2, place := 1536 } [none, none] 7 32000) := by
  unfold TablesGood; decide

/-- The context of a member of one chunk that has started, with a reference on window 63. -/
def oneStarted : MemberCtx :=
  { primary := some ⟨0x200000, 2047⟩, secondary := none, refs := [63], count := 1, next := 1, doneChunks := 0, doneAhead := [], crc := 0 }

/-- A FILL of 2047 bytes. -/
def fill : SubRecord := { mark 0 with op := 4, length := 2047, pattern := 0xAAAAAAAAAAAAAAAA }

/-- The write of a FILL's one chunk, up to the last byte below 4 GiB. -/
def fillWrite : CardOp := accessOf 7 0xFFFFF801 2047 (some (List.replicate 2047 0xAA)) 0

/-- Slot 31 runs the FILL. -/
def filler : State := withWin 63 .opened 1 (runner fill [chunkOf 0 .writing none 0] [fillWrite] oneStarted)

theorem witness_CardWriteStores :
    MemoryInForm filler ∧ filler.card.scrub = none ∧ filler.card.find fillWrite.id = some fillWrite ∧ filler.card.ops = [fillWrite]
    ∧ fillWrite.write = some (List.replicate 2047 0xAA) ∧ (List.replicate 2047 (0xAA : Byte)).length = fillWrite.len
    ∧ fillWrite.reached = [] ∧ fillWrite.base + fillWrite.len ≤ 2 ^ 32 ∧ 0 < fillWrite.len ∧ fillWrite.base % 8 ≠ 0 := by
  refine ⟨rfl, rfl, rfl, rfl, rfl, List.length_replicate, rfl, by decide, by decide, by decide⟩

/-- Slot 31 runs the FILL through window 63 in state `st` with `refs` references, which a deferred WINDOW_CLOSE waits on, and fences 5
and 7 count its write among others. -/
def fillerIn (st : WindowState) (refs : Nat) (closeTag : Option Tag) : State :=
  waiting7 .windowClose 63 ((counted [5, 7] 2 filler).withWindow 63 fun y => { y with st, refs, closeTag })

/-- A window that stays, one that retires with its last reference, closed by its partition's close, and one closed by WINDOW_CLOSE. -/
theorem witness_FillMemberEnds :
    (∀ x ∈ [(WindowState.opened, 1, none), (.retiring, 2, some 9#16), (.retiring, 1, none), (.retiring, 1, some 9#16)],
      let s := fillerIn x.1 x.2.1 x.2.2
      s.device.st = .running ∧ TablesGood s ∧ (s.fences.records.find? (fun r => decide (r.id = 7))).map AccessRecord.countedBy = some [5, 7]
      ∧ (∀ f ∈ ([5, 7] : List FNum), (s.fence f).outstanding = some (0 + 2)) ∧ s.deferredAt .windowClose 63 = some 7
      ∧ look s.admin.deferred 7 = some (deferred9 .windowClose 63) ∧ (s.part (s.slot 31).partition).faultCause = none)
    ∧ fillWrite.base + fillWrite.len ≤ 2 ^ 32 ∧ fill.op = 4 ∧ fill.length.toNat ≤ 2048 := by
  unfold TablesGood; decide

/-- The FILL as its slot holds it. -/
theorem witness_FillMemberEndsSlot (st : WindowState) (refs : Nat) (closeTag : Option Tag) :
    let s := fillerIn st refs closeTag
    s.card.find fillWrite.id = some fillWrite ∧ (s.slot 31).st = .running ∧ (s.slot 31).verdict = none ∧ (s.slot 31).abort = none
    ∧ (s.slot 31).ctx = some oneStarted ∧ (s.slot 31).members.length = (s.slot 31).current + 1
    ∧ (s.slot 31).members[(s.slot 31).current]? = some fill ∧ (s.slot 31).chunks = [chunkOf 0 .writing none 0] :=
  ⟨rfl, rfl, rfl, rfl, rfl, rfl, rfl, rfl⟩

/-- Slot 31 of partition 4, which has no reserve, waits for a buffer for the last chunk of a COPY_OUT of ten; partition 3 is QUIESCED with
a reserve of 8, and 8 buffers are free. -/
def waiter : State :=
  ((cmd (((((part3 .quiesced 0).withPart 4 fun y => { y with st := .opened, held := 3, limit := 9 }).withSlot 31 fun x =>
    { x with st := .waitBuffer, partition := 4, members := [fullRecord 2 10], ctx := some { lastCtx with count := 10, next := 9 } }).withPart 3
      fun y => { y with reserve := 8 }).withPool fun q => { q with waiting := [(31, 4)], free := 8 }))).withBuffer 0 fun x =>
        { x with owner := some 4 }

/-- A reserve lowered to 7 lets it take buffer 1; and one kept at 8 does not. -/
theorem witness_PoolShareSetGrants :
    let set := waiter.withPart 3 fun y => { y with reserve := 7, limit := 8 }
    CommandReady waiter 5 ∧ (waiter.part 3).st = .quiesced ∧ (7#8).toNat ≤ waiter.sharedFree + ((waiter.part 3).reserve - (waiter.part 3).held)
    ∧ waiter.otherReserves 3 = 0 ∧ (7#8).toNat < (waiter.part 3).reserve ∧ waiter.pool.waiting = [(31, 4)] ∧ MayTake set 4
    ∧ ¬MayTake waiter 4 ∧ LowestFree waiter 1 ∧ (waiter.slot 31).st = .waitBuffer ∧ (waiter.slot 31).partition = 4
    ∧ (waiter.slot 31).ctx = some { lastCtx with count := 10, next := 9 }
    ∧ (waiter.slot 31).members[(waiter.slot 31).current]? = some (fullRecord 2 10) ∧ (waiter.slot 31).chunks = []
    ∧ FenceClear waiter (0x200000 + 2048 * 9) 2048 := by
  unfold CommandReady TablesGood MayTake LowestFree FenceClear
  exact ⟨by decide, by decide, by decide, by decide, by decide, rfl, by decide, by decide, by decide, rfl, rfl, rfl, rfl, rfl, by decide⟩

/-- Shared free unchanged, and changed; a device in HALTED. -/
theorem witness_PoolReevaluated : waiter.sharedFree = 0 ∧ waiter.device.st ≠ .halted ∧ (inState .halted).device.st = .halted := by decide

/-- The pass over three waiting slots: partition 5 is CLOSED, and partition 4 comes before it in the order. -/
theorem witness_BufferArbitratedPass :
    let s := waiter.withPool fun q => { q with waiting := [(9, 5), (31, 4), (7, 4)], pointer := 3, free := 9 }
    (4 : PNum).val = (s.pool.pointer.val + 1 + 0) % 16 ∧ MayTake s 4 ∧ LowestFree s 1 ∧ ¬MayTake s 5
    ∧ s.pool.waiting = [(9, 5)] ++ (31, 4) :: [(7, 4)] ∧ ∀ x ∈ [((9 : SNum), (5 : PNum))], x.2 ≠ 4 := by
  unfold MayTake LowestFree
  exact ⟨by decide, by decide, by decide, by decide, rfl, fun x h => by rw [List.mem_singleton.mp h]; decide⟩

/-- Nobody may take the buffer; and the requester of the last partition in the order may. -/
theorem witness_BufferArbitrated :
    (∀ q, ¬∃ i, (i, q) ∈ live.pool.waiting)
    ∧ (let s := (withPart3 id).withPool fun q => { q with waiting := [(4, 5), (31, 3)], free := 0, pointer := 3 }
       (3 : PNum).val = (s.pool.pointer.val + 1 + 15) % 16 ∧ (s.part 5).st = .closed ∧ (s.part 3).st ≠ .closed
       ∧ (s.part 3).held < (s.part 3).reserve ∧ s.pool.waiting = [(4, 5)] ++ (31, 3) :: []) := by
  refine ⟨?_, by decide⟩
  rintro q ⟨i, h⟩
  cases h

/-- A message; a piece of chunk data of which one byte is left; and a completion of slot 31. -/
theorem witness_PostedWriteIssued :
    (inState .halted).device.st = .halted ∧ live.device.st = .running
    ∧ (let w : PostedWrite := { kind := .message 17, addr := 0, bytes := [1, 2, 3, 4] }; (stored [w] live).link.store = w :: [])
    ∧ (let w : PostedWrite := { kind := .data, addr := 0x10FF, bytes := [3, 4] }; min 256 (256 - w.addr.toNat % 256) < w.bytes.length)
    ∧ (let w : PostedWrite := { kind := .completion 31, addr := 0, bytes := [] }
       let s := stored [w] (withSlot31 .posting (part3 .opened 1))
       TablesGood s ∧ (s.slot 31).st = .posting ∧ (s.slot 31).errorDue = false ∧ (s.part (s.slot 31).partition).st = .opened
       ∧ ∀ j, (s.slot j).partition = (s.slot 31).partition → (s.slot j).st ≠ .waitOrder)
    ∧ (∀ x ∈ [(PartState.quiescing, DeferOp.partitionQuiesce), (.closing, .partitionClose)],
       let s := waiting7 x.2 3 (withSlot31 .posting (part3 x.1 1))
       (s.part 3).st = x.1 ∧ (s.part 3).slotsHeld = 1 ∧ s.pool.waiting = [] ∧ s.deferredAt x.2 3 = some 7
       ∧ look s.admin.deferred 7 = some (deferred9 x.2 3)) := by
  unfold TablesGood; decide

/-- A group whose second member failed FENCED at fence 7, under each disposition, its completion issued or not. -/
def failedGroup (d : Disposition) (posted : Bool) : State :=
  stored [{ kind := .completion 31, addr := 0, bytes := [] }]
    ((withPart3 fun y => { y with slotsHeld := 1, dispositions := { y.dispositions with fenced := d } }).withSlot 31 fun x =>
      { x with st := .posting, partition := 3, errorDue := true, posted, members := [mark 1, mark 0],
               verdict := some { status := .fenced, detail := 7, failedMember := 1 } })

theorem witness_ErrorPathTaken :
    (∀ d ∈ [Disposition.report, .reportEvent, .halt], ∀ posted : Bool,
      let s := failedGroup d posted
      s.device.st = .running ∧ TablesGood s ∧ s.link.store ≠ [] ∧ (s.slot 31).st = .posting ∧ (s.slot 31).errorDue = true
      ∧ (s.slot 31).verdict = some { status := .fenced, detail := 7, failedMember := 1 } ∧ (s.slot 31).partition = 3
      ∧ (s.slot 31).posted = posted ∧ (s.part 3).dispositions.of .fenced = d ∧ (s.part 3).st = .opened
      ∧ (∀ j, (s.slot j).partition = 3 → (s.slot j).st ≠ .waitOrder)
      ∧ (∀ j ≠ (31 : Fin 32), (s.slot j).st ≠ .free → (s.slot j).partition ≠ 3) ∧ s.deferredAt .partitionQuiesce 3 = none
      ∧ (stored [] s).link.store = [] ∧ (stored [] s).device.st = .running)
    ∧ Status.fenced.errorClass = some .fenced := by
  unfold TablesGood; decide

theorem witness_HoldoffExpires :
    (live.vector 17).timer = none ∧ (inState .halted).device.st = .halted
    ∧ (let s := live.withVector 17 fun _ => { MsgVector.configured true 64 255 4 5 with st := .gathering, timer := some 1020, u := 63 }
       s.device.st ≠ .halted ∧ (s.vector 17).timer = some 1020 ∧ (s.vector 17).st = .gathering ∧ (s.vector 17).enable = true) := by decide

theorem witness_VectorRules : MsgVector.reset.enable = false ∧ vector5.enable = true ∧ vector5.st = .quiet := by decide

theorem witness_RecordsDecode :
    ((encodeCommand (.linkSet 0xFFFF false 0xFFFF)).isSome = true ∧ Instr.wellFormed (.linkSet 0xFFFF false 0xFFFF) = true)
    ∧ (15#8).toNat = (15 : PNum).val ∧ (31#8).toNat = (15 : PNum).val + 16 ∧ 35 ≤ (35#8).toNat ∧ 65535 < 65536
    ∧ (3#64).getLsbD 1 = true ∧ (3#64).getLsbD 0 = true ∧ (4#64).getLsbD 1 = false ∧ (4#64).getLsbD 0 = false := by decide

/-- A state with a LOCKED window, a locked fence list and one entry of card memory. -/
def lawful : State :=
  ({ lockedList (withFen 7 .active (withWin 63 .locked 0 live)) with pending := [.statusRead] }).withCard fun c => { c with mem := [(5, 1)] }

theorem witness_IsolationKept : Isolated lawful ∧ ∃ t, step lawful = .next t := by
  refine ⟨fun v w a hv hw ho => ?_, ⟨_, rfl⟩⟩
  have h : ∀ v : WNum, (lawful.window v).st ≠ .free → v = 63 := by decide
  exact absurd (by rw [h v hv, h w hw]) ho

theorem witness_MemoryFormKept : MemoryInForm lawful ∧ ∃ t, step lawful = .next t := ⟨rfl, _, rfl⟩

theorem witness_PoolCoveredKept : PoolCovered lawful ∧ ∃ t, step lawful = .next t := by
  refine ⟨?_, ⟨_, rfl⟩⟩
  unfold PoolCovered
  decide

theorem witness_LocksOutlastCommands :
    powerOnOrBus .statusRead = false ∧ (∃ t, exec .statusRead lawful = .next t) ∧ (lawful.window 63).st = .locked
    ∧ lawful.fences.locked = true ∧ (lawful.fence 7).st = .active := ⟨rfl, ⟨_, rfl⟩, rfl, rfl, rfl⟩

theorem witness_OnlyCardCommandsWrite :
    (powerOnOrBus (.busReset 1) = true ∧ live.card.scrub = none ∧ ∃ t, exec (.busReset 1) live = .next t)
    ∧ powerOnOrBus .statusRead = false ∧ Instr.statusRead ≠ .scrubComplete ∧ (∀ n, Instr.statusRead ≠ .cardReadDataReturn n)
    ∧ (∀ n a b, Instr.statusRead ≠ .cardWriteAcknowledge n a b) ∧ ∃ t, exec .statusRead lawful = .next t :=
  ⟨⟨rfl, rfl, _, rfl⟩, rfl, by decide, fun _ => nofun, fun _ _ _ => nofun, _, rfl⟩

theorem witness_HaltedFreezes :
    powerOnOrBus .statusRead = false ∧ (∀ b, Instr.statusRead ≠ .functionReset b) ∧ Instr.statusRead ≠ .pcieFunctionLevelReset
    ∧ (inState .halted).device.st = .halted ∧ ∃ t, exec .statusRead (inState .halted) = .next t :=
  ⟨rfl, fun _ => nofun, nofun, rfl, _, rfl⟩

end Sys2Proof.Machine.Tests
end

section
/-! The fence commands FENCE_CLEAR and FENCE_LOCK (R28, R29): how a command on the channel reaches its effect, what the
effect on the fence list is, and that an EMPTY entry stops no access. -/

namespace Sys2Proof.Machine.Proofs

open Laws

/-! ### A command read that returns live -/

section Ready
variable {s : State} {n : TNum}

theorem taken_not_halted (h : CommandReady s n) : (s.taken n).halted = false := by
  obtain ⟨-, live, -⟩ := h
  have running : s.device.st = .running := by
    simp only [State.commandLive, State.running, Bool.and_eq_true, decide_eq_true_eq] at live
    exact live.1.1
  exact running_not_halted _ running

theorem returnCommand_ready (h : CommandReady s n) (run : State → State) :
    s.returnCommand run = .next (run (s.withTag n fun _ => .free)) := by
  obtain ⟨tag, live, -⟩ := h
  exact returnCommand_live s n run tag live

theorem badParam_freed (o : Nat) (t : Tag) :
    (s.withTag n fun _ => .free).badParam o t = (s.taken n).adminComplete o t .badParam 0 := (rfl)

/-- A command that passes its first test and reads no table goes on to its effect. -/
theorem execute_readNone_freed (o : Nat) (t : Tag) (e : State → Effect) :
    (s.withTag n fun _ => .free).execute o t true State.readNone e
      = State.conclude (s.taken n).sharedFree o t (e (s.taken n)) :=
  execute_valid _ o t State.readNone e rfl

end Ready

/-! ### The effect of the commands on the list -/

section Effects
variable {s : State} {f : FNum}

theorem clearFence_locked (h : s.fences.locked = true) : s.clearFence f = s.refuse .locked := by
  simp [State.clearFence, h]

theorem clearFence_active (h : s.fences.locked = false) (hf : (s.fence f).st = .active) :
    s.clearFence f = (s.withFence f fun _ => Fence.empty).accept [] := by
  simp [State.clearFence, h, hf]

theorem clearFence_inactive (h : s.fences.locked = false) (hf : (s.fence f).st ≠ .active) :
    s.clearFence f = s.refuse .state := by
  simp [State.clearFence, h, hf]

@[simp] theorem adminComplete_fence (o : Nat) (t : Tag) (a : AdminStatus) (d : Nat) :
    (s.adminComplete o t a d).fence f = s.fence f := by
  have fences : (s.adminComplete o t a d).fences = s.fences :=
    congrArg (fun x => x.2.2.2.1) (outer_adminComplete s o t a d)
  rw [State.fence, State.fence, fences]

/-- R22: an access is refused with the number of the fence that the check finds. -/
theorem presentAccess_eq_error_iff {i : SNum} {k base len : Nat} {write : Option (List Byte)} :
    s.presentAccess i k base len write = .error f ↔ s.fenceHit base len = some f := by
  unfold State.presentAccess
  split <;> simp_all

/-- The check finds only entries in force. -/
theorem fenceHit_ne_of_empty {base len : Nat} (h : (s.fence f).st = .empty) : s.fenceHit base len ≠ some f := by
  intro hit
  have inForce := lowest_some hit
  simp [Fence.inForce, h] at inForce

/-- R22: an EMPTY entry stops no access. -/
theorem presentAccess_ne_error_of_empty (h : (s.fence f).st = .empty) (i : SNum) (k base len : Nat)
    (write : Option (List Byte)) : s.presentAccess i k base len write ≠ .error f :=
  mt presentAccess_eq_error_iff.mp (fenceHit_ne_of_empty h)

end Effects

/-! ### The rows of the table -/

section Rows
variable {s : State} {n : TNum} {tag : Tag} {x : BitVec 8}

theorem exec_fenceClear_eq : exec (.fenceClear tag false x) s = s.returnCommand fun s => s.runFenceClear tag false x := (rfl)

theorem exec_fenceLock_eq : exec (.fenceLock tag false) s = s.returnCommand fun s => s.runFenceLock tag false := (rfl)

theorem exec_fenceClear_outOfRange (h : CommandReady s n) (hx : 8 ≤ x.toNat) :
    exec (.fenceClear tag false x) s = .next ((s.taken n).adminComplete 0x19 tag .badParam 0) := by
  rw [exec_fenceClear_eq, returnCommand_ready h, State.runFenceClear, State.executeFence, asNum_eq_none.mpr hx]
  rfl

theorem exec_fenceClear {f : FNum} (h : CommandReady s n) (hx : x.toNat = f.val) :
    exec (.fenceClear tag false x) s
      = .next (State.conclude (s.taken n).sharedFree 0x19 tag ((s.taken n).clearFence f)) := by
  rw [exec_fenceClear_eq, returnCommand_ready h, State.runFenceClear, State.executeFence, hx, asNum_val, Bool.not_false]
  exact congrArg _ (execute_readNone_freed 0x19 tag fun s => s.clearFence f)

/-- R28: a FENCE_CLEAR that its effect refuses. -/
theorem exec_fenceClear_refused {f : FNum} {a : AdminStatus} (h : CommandReady s n) (hx : x.toNat = f.val)
    (refused : (s.taken n).clearFence f = (s.taken n).refuse a) :
    exec (.fenceClear tag false x) s = .next ((s.taken n).adminComplete 0x19 tag a 0) := by
  rw [exec_fenceClear h hx, refused, conclude_refuse _ _ _ _ _ (taken_not_halted h) rfl]

/-- R28: a FENCE_CLEAR of an ACTIVE entry. -/
theorem exec_fenceClear_active {f : FNum} (h : CommandReady s n) (hx : x.toNat = f.val)
    (unlocked : s.fences.locked = false) (active : (s.fence f).st = .active) :
    exec (.fenceClear tag false x) s
      = .next (((s.taken n).withFence f fun _ => Fence.empty).adminComplete 0x19 tag .ok 0) := by
  have cleared : (s.taken n).clearFence f = ((s.taken n).withFence f fun _ => Fence.empty).accept [] :=
    clearFence_active unlocked active
  have outsideHalted : ((s.taken n).withFence f fun _ => Fence.empty).halted = false :=
    (withFence_halted ..).trans (taken_not_halted h)
  rw [exec_fenceClear h hx, cleared, conclude_accept _ _ _ _ outsideHalted (sharedFree_withFence ..)]

/-- R29: FENCE_LOCK in every state of the list. -/
theorem exec_fenceLock (h : CommandReady s n) :
    exec (.fenceLock tag false) s
      = .next (((s.taken n).withFences fun u => { u with locked := true }).adminComplete 0x1A tag .ok 0) := by
  have outsideHalted : ((s.taken n).withFences fun u => { u with locked := true }).halted = false :=
    (withFences_halted ..).trans (taken_not_halted h)
  rw [exec_fenceLock_eq, returnCommand_ready h, State.runFenceLock, Bool.not_false, execute_readNone_freed, State.lockFences,
    conclude_accept _ _ _ _ outsideHalted (sharedFree_withFences ..)]

end Rows

/-- Settles O29: the number's range first, then the lock, then the state of the entry; the cleared entry is EMPTY in the
state after the step, where the fence check passes it over. -/
theorem fenceClearedAndLocked : Obligations.FenceClearedAndLocked := by
  intro s n tag x h u run
  refine ⟨exec_fenceClear_outOfRange h, fun f hx => ⟨fun locked => ?_, fun unlocked active => ⟨?_, ?_⟩,
    fun unlocked inactive => ?_⟩, exec_fenceLock h⟩
  · exact exec_fenceClear_refused h hx (clearFence_locked locked)
  · exact exec_fenceClear_active h hx unlocked active
  · intro t i k base len write ht
    obtain rfl : _ = t := Host.Outcome.next.inj ((exec_fenceClear_active h hx unlocked active).symm.trans ht)
    exact presentAccess_ne_error_of_empty (by simp [Fence.empty]) i k base len write
  · have notActive : (s.fence f).st ≠ .active := by
      rcases inactive with e | e <;> simp [e]
    exact exec_fenceClear_refused h hx (clearFence_inactive unlocked notActive)

end Sys2Proof.Machine.Proofs
end

section
/-! The VECTOR_SET command (R137, R138): what its tests admit, what its effect on the vector table is, and the completion
that follows. -/

namespace Sys2Proof.Machine.Proofs

open Laws

section VectorSet
variable {s : State} {n : TNum} {tag : Tag} {x e t h : BitVec 8} {address : HostAddr} {data : BitVec 32} {v : VNum}

theorem vectorParamsOk_iff {enable threshold : Nat} :
    vectorParamsOk enable threshold address = true
      ↔ enable ≤ 1 ∧ 1 ≤ threshold ∧ threshold ≤ 64 ∧ address.toNat % 4 = 0 := by
  simp [vectorParamsOk, and_assoc]

theorem exec_vectorSet_eq :
    exec (.vectorSet tag false x e t h address data) s
      = s.returnCommand fun s => s.runVectorSet tag false x e t h address data := (rfl)

theorem runVectorSet_outOfRange (hx : 18 ≤ x.toNat) :
    s.runVectorSet tag false x e t h address data = s.badParam 0x28 tag := by
  rw [State.runVectorSet, asNum_eq_none.mpr hx]

theorem runVectorSet_inRange (hx : x.toNat = v.val) :
    s.runVectorSet tag false x e t h address data
      = s.execute 0x28 tag (vectorParamsOk e.toNat t.toNat address) State.readNone fun s =>
          s.setVector v (decide (e.toNat = 1)) t.toNat h.toNat address data := by
  rw [State.runVectorSet, hx, asNum_val, Bool.not_false, Bool.true_and]

/-- R137: a vector number or a parameter out of range, whatever enable is. -/
theorem runVectorSet_illegal
    (illegal : ¬(x.toNat < 18 ∧ e.toNat ≤ 1 ∧ 1 ≤ t.toNat ∧ t.toNat ≤ 64 ∧ address.toNat % 4 = 0)) :
    s.runVectorSet tag false x e t h address data = s.badParam 0x28 tag := by
  by_cases hx : x.toNat < 18
  · have paramsBad : vectorParamsOk e.toNat t.toNat address = false :=
      Bool.eq_false_iff.mpr fun ok => illegal ⟨hx, vectorParamsOk_iff.mp ok⟩
    rw [runVectorSet_inRange (v := ⟨x.toNat, hx⟩) rfl, paramsBad, execute_invalid]
  · exact runVectorSet_outOfRange (Nat.le_of_not_lt hx)

/-- R138: the effect on the vector, which touches neither the pool nor the device's state, and so the completion. -/
theorem conclude_setVector (enable : Bool) (threshold holdoff o : Nat) (outsideHalted : s.halted = false) :
    State.conclude s.sharedFree o tag (s.setVector v enable threshold holdoff address data)
      = (s.withVector v fun _ => MsgVector.configured enable threshold holdoff address data).adminComplete o tag .ok 0 :=
  conclude_accept _ _ _ _ ((withVector_halted ..).trans outsideHalted) (sharedFree_withVector ..)

theorem exec_vectorSet_legal (ready : CommandReady s n) (hx : x.toNat = v.val)
    (legal : vectorParamsOk e.toNat t.toNat address = true) :
    exec (.vectorSet tag false x e t h address data) s
      = .next (((s.taken n).withVector v fun _ =>
          MsgVector.configured (decide (e.toNat = 1)) t.toNat h.toNat address data).adminComplete 0x28 tag .ok 0) := by
  rw [exec_vectorSet_eq, returnCommand_ready ready, runVectorSet_inRange hx, legal, execute_readNone_freed,
    conclude_setVector _ _ _ _ (taken_not_halted ready)]

end VectorSet

/-- Settles O33: the tests of R137 are those of the model, the vector number's among them; a command that passes them
leaves its vector as R138 says and completes OK. -/
theorem vectorConfigured : Obligations.VectorConfigured := by
  intro s n tag x e t h address data ready u run legal
  refine ⟨fun illegal => ?_, fun v hx ⟨_, paramsLegal⟩ => ?_⟩
  · exact (returnCommand_ready ready _).trans (congrArg _ (runVectorSet_illegal illegal))
  · have enableBit : decide (e.toNat = 1) = decide (e = 1) := decide_eq_decide.mpr (BitVec.toNat_inj (y := 1))
    rw [← enableBit]
    exact exec_vectorSet_legal ready hx (vectorParamsOk_iff.mpr paramsLegal)

end Sys2Proof.Machine.Proofs
end

section
/-! The DISPOSITION_SET command (R147): which class and disposition codes name something, which field of the partition's
dispositions a class names, and the completion that follows. -/

namespace Sys2Proof.Machine.Proofs

open Laws

/-! ### Codes of classes and dispositions (R198) -/

section DispositionCodes

theorem classOfCode_eq_some {k : Nat} {cls : ErrorClass} (h : classOfCode k = some cls) : 1 ≤ k ∧ k ≤ 5 := by
  unfold classOfCode at h
  split at h <;> simp_all

theorem dispositionOfCode_eq_some {k : Nat} {value : Disposition} (h : dispositionOfCode k = some value) : k ≤ 2 := by
  unfold dispositionOfCode at h
  split at h <;> simp_all

theorem dispositionOfCode_legal {v : BitVec 8} (h : v.toNat ≤ 2) :
    dispositionOfCode v.toNat = some (if v = 0 then .report else if v = 1 then .reportEvent else .halt) := by
  obtain rfl | rfl | rfl : v = 0 ∨ v = 1 ∨ v = 2 := by bv_omega
  all_goals rfl

/-- R147: each class code names one field, and setting its class's disposition replaces that field alone. -/
theorem exists_classOfCode_set {c : BitVec 8} (hlo : 1 ≤ c.toNat) (hhi : c.toNat ≤ 5) :
    ∃ cls, classOfCode c.toNat = some cls ∧ ∀ (d : Dispositions) (value : Disposition), d.set cls value =
      if c = 1 then { d with window := value } else if c = 2 then { d with fenced := value }
      else if c = 3 then { d with hostRead := value } else if c = 4 then { d with cardEcc := value }
      else { d with malformed := value } := by
  obtain rfl | rfl | rfl | rfl | rfl : c = 1 ∨ c = 2 ∨ c = 3 ∨ c = 4 ∨ c = 5 := by bv_omega
  all_goals exact ⟨_, rfl, fun _ _ => rfl⟩

end DispositionCodes

/-! ### A command on one partition's entry -/

section PartitionEntry
variable {s : State} {n : TNum} {o : Nat} {tag : Tag} {x : BitVec 8} {p : PNum}

/-- An update of one entry is fixed by what it makes of the entry that stands there. -/
theorem withPart_congr {f g : Partition → Partition} (same : f (s.part p) = g (s.part p)) :
    s.withPart p f = s.withPart p g :=
  congrArg (fun y => { s with parts := s.parts.set p.val y }) same

theorem executePart_outOfRange {valid : Bool} {reads : State → PNum → Option HaltCause} {e : State → PNum → Effect}
    (hx : 16 ≤ x.toNat) : s.executePart o tag valid x reads e = s.badParam o tag := by
  rw [State.executePart, asNum_eq_none.mpr hx]

/-- With the tables good, a command that reads its partition's entry alone goes on to its effect. -/
theorem executePart_readPart_freed (e : State → PNum → Effect) (ready : CommandReady s n) (hx : x.toNat = p.val) :
    (s.withTag n fun _ => .free).executePart o tag true x State.readPart e
      = State.conclude (s.taken n).sharedFree o tag (e (s.taken n) p) := by
  obtain ⟨-, -, slots, windows, parts⟩ := ready
  have entryGood : (s.withTag n fun _ => .free).readPart p = none := readPart_good slots windows parts p
  rw [State.executePart, hx, asNum_val]
  exact execute_valid _ o tag (fun s => s.readPart p) (fun s => e s p) entryGood

end PartitionEntry

/-! ### The command -/

section DispositionSet
variable {s : State} {n : TNum} {tag : Tag} {q c v : BitVec 8} {p : PNum} {cls : ErrorClass} {value : Disposition}

theorem exec_dispositionSet_eq :
    exec (.dispositionSet tag false q c v) s = s.returnCommand fun s => s.runDispositionSet tag false q c v := (rfl)

/-- R147: a partition, a class or a disposition out of range. -/
theorem runDispositionSet_illegal (illegal : ¬(q.toNat < 16 ∧ 1 ≤ c.toNat ∧ c.toNat ≤ 5 ∧ v.toNat ≤ 2)) :
    s.runDispositionSet tag false q c v = s.badParam 0x06 tag := by
  unfold State.runDispositionSet
  split
  next cls value hcls hvalue =>
    obtain ⟨hlo, hhi⟩ := classOfCode_eq_some hcls
    have outOfRange : 16 ≤ q.toNat :=
      Nat.le_of_not_lt fun hq => illegal ⟨hq, hlo, hhi, dispositionOfCode_eq_some hvalue⟩
    exact executePart_outOfRange outOfRange
  next => rfl

theorem exec_dispositionSet_legal (ready : CommandReady s n) (hq : q.toNat = p.val) (hcls : classOfCode c.toNat = some cls)
    (hvalue : dispositionOfCode v.toNat = some value) :
    exec (.dispositionSet tag false q c v) s
      = .next (State.conclude (s.taken n).sharedFree 0x06 tag ((s.taken n).setDisposition p cls value)) := by
  rw [exec_dispositionSet_eq, returnCommand_ready ready, State.runDispositionSet, hcls, hvalue]
  exact congrArg _ (executePart_readPart_freed (fun s p => s.setDisposition p cls value) ready hq)

/-- The entry of a CLOSED partition stays, and the command completes STATE. -/
theorem conclude_setDisposition_closed {o : Nat} (outsideHalted : s.halted = false) (closed : (s.part p).st = .closed) :
    State.conclude s.sharedFree o tag (s.setDisposition p cls value) = s.adminComplete o tag .state 0 := by
  rw [State.setDisposition, if_pos closed, conclude_refuse _ _ _ _ _ outsideHalted rfl]

/-- The effect on any other entry touches neither the device's state nor the partition's share of the pool. -/
theorem conclude_setDisposition {o : Nat} (outsideHalted : s.halted = false) (notClosed : (s.part p).st ≠ .closed) :
    State.conclude s.sharedFree o tag (s.setDisposition p cls value)
      = (s.withPart p fun y => { y with dispositions := y.dispositions.set cls value }).adminComplete o tag .ok 0 := by
  rw [State.setDisposition, if_neg notClosed]
  exact conclude_accept _ _ _ _ ((withPart_halted ..).trans outsideHalted) (sharedFree_withPart _ _ _ rfl)

end DispositionSet

/-- Settles O24: the tests of R147 are the partition's range and the codes that name a class and a disposition; after them
the partition's state decides between STATE and the replacement of the one field that the class names. -/
theorem dispositionReplaced : Obligations.DispositionReplaced := by
  intro s n tag q c v ready u run legal value
  refine ⟨fun illegal => ?_, fun p hq ⟨_, hlo, hhi, hv⟩ => ?_⟩
  · exact (returnCommand_ready ready _).trans (congrArg _ (runDispositionSet_illegal illegal))
  · obtain ⟨cls, hcls, setField⟩ := exists_classOfCode_set hlo hhi
    have outsideHalted : (s.taken n).halted = false := taken_not_halted ready
    have concluded := exec_dispositionSet_legal (tag := tag) ready hq hcls (dispositionOfCode_legal hv)
    refine ⟨fun closed => ?_, fun notClosed => ?_⟩
    · exact concluded.trans (congrArg _ (conclude_setDisposition_closed outsideHalted closed))
    · have oneField : u.withPart p (fun y => { y with dispositions := (s.part p).dispositions.set cls value })
          = u.withPart p fun y => { y with dispositions := y.dispositions.set cls value } := withPart_congr rfl
      rw [← setField, oneField]
      exact concluded.trans (congrArg _ (conclude_setDisposition outsideHalted notClosed))

end Sys2Proof.Machine.Proofs
end

section
/-! The admin submission ring tail (R162): what a fault makes of a channel in NORMAL (R171), how a tail is taken, and the
tail after the rings are taken up (R160). -/

namespace Sys2Proof.Machine.Proofs

open Laws

/-! ### A channel fault -/

/-- Numbers counted one by one are as many as the list of them is long. -/
theorem total_one_eq_length_which {n : Nat} (p : Fin n → Bool) :
    (total fun i => if p i = true then 1 else 0) = (which p).length := by
  unfold total which
  induction List.finRange n with
  | nil => rfl
  | cons i l ih => cases h : p i <;> simp [h, ih, Nat.add_comm]

section ChannelFault
variable {s : State} {c : ChannelFault}

theorem postingDeferred_eq_length_which :
    s.postingDeferred = (which fun i => ((look s.admin.deferred i).map Deferred.post).getD false).length := by
  rw [← total_one_eq_length_which]
  refine congrArg total (funext fun i => ?_)
  cases look s.admin.deferred i <;> rfl

/-- R171: the fault's cause and the discarded answers together are the channel of the statement. -/
theorem discardAnswers_faulted :
    (s.withAdmin fun a => { a with faulted := true, faultCause := some c }).discardAnswers
      = { s with admin := faultedChannel s.admin c } := by
  unfold faultedChannel
  rw [← postingDeferred_eq_length_which]
  rfl

theorem channelFault_normal (normal : s.admin.faulted = false) :
    s.channelFault c = State.handOver { s with admin := faultedChannel s.admin c } (.adminFault c) := by
  rw [State.channelFault, normal, if_neg Bool.false_ne_true, discardAnswers_faulted]

/-- R172: a further fault adds nothing. -/
theorem channelFault_faulted (faulted : s.admin.faulted = true) : s.channelFault c = s := by
  rw [State.channelFault, if_pos faulted]

end ChannelFault

/-! ### The tail -/

section AdminTail
variable {s t : State} {index : BitVec 16}

theorem takeAdminTail_inRange {k : Nat} (inRange : k < s.admin.sqSize) :
    s.takeAdminTail k = s.withAdmin fun a => { a with sqTail := k } :=
  if_pos inRange

theorem takeAdminTail_outOfRange {k : Nat} (outOfRange : s.admin.sqSize ≤ k) :
    s.takeAdminTail k = s.channelFault .sqIndex :=
  if_neg (Nat.not_lt.mpr outOfRange)

theorem exec_notifyAdminSqTail_notRunning (notRunning : s.device.st ≠ .running) :
    exec (.notifyAdminSqTail index) s = .next s.rejectNotify :=
  congrArg Host.Outcome.next (if_neg (mt of_decide_eq_true notRunning))

theorem exec_notifyAdminSqTail_running (running : s.device.st = .running) :
    exec (.notifyAdminSqTail index) s = .next (s.takeAdminTail index.toNat) :=
  congrArg Host.Outcome.next (if_pos (decide_eq_true running))

/-! ### The take-up -/

theorem enable_admin : s.enable.admin = s.admin.takeUp s.device := (rfl)

theorem exec_enableAttempt_ready (ready : s.device.st = .ready) :
    exec .enableAttempt s
      = .next (if s.device.enableOk then s.enable else s.withDevice fun d => { d with configError := true }) :=
  congrArg Host.Outcome.next (if_pos ready)

/-- R190: an attempt in READY that ends in RUNNING is one that took the rings up; one that fails stays in READY. -/
theorem eq_enable_of_exec_enableAttempt (ready : s.device.st = .ready) (h : exec .enableAttempt s = .next t)
    (running : t.device.st = .running) : t = s.enable := by
  rw [exec_enableAttempt_ready ready, Host.Outcome.next.injEq] at h
  subst h
  split at running
  next passes => exact if_pos passes
  next =>
    rw [withDevice_device, ready] at running
    contradiction

end AdminTail

/-- Settles O14: the device's state decides between the rejection and the Admin Engine, there the index's range and then
the channel's state; a passing enable attempt takes up empty rings. -/
theorem adminTailTaken : Obligations.AdminTailTaken := by
  intro s index run
  refine ⟨exec_notifyAdminSqTail_notRunning, fun running => ?_, fun ready t h entered => ?_⟩
  · have taken : run = .next (s.takeAdminTail index.toNat) := exec_notifyAdminSqTail_running running
    refine ⟨fun inRange => ?_, fun outOfRange faulted => ?_, fun outOfRange normal => ?_⟩
    · exact taken.trans (congrArg _ (takeAdminTail_inRange inRange))
    · rw [taken, takeAdminTail_outOfRange outOfRange, channelFault_faulted faulted]
    · rw [taken, takeAdminTail_outOfRange outOfRange, channelFault_normal normal]
  · rw [eq_enable_of_exec_enableAttempt ready h entered, enable_admin]
    rfl

end Sys2Proof.Machine.Proofs
end

section
/-! The host read timeout: LINK_SET (R180), the resets (R182), and a stop (R191), none of whose operations touches it. -/

namespace Sys2Proof.Machine.Proofs

open Laws

/-! ### The command -/

section LinkSet
variable {s : State} {n : TNum} {tag : Tag} {rsv : Bool} {k : BitVec 16}

theorem exec_linkSet_eq : exec (.linkSet tag rsv k) s = s.returnCommand fun s => s.runLinkSet tag rsv k := (rfl)

/-- R180: 0, a value above 255, or a set reserved byte. -/
theorem exec_linkSet_illegal (ready : CommandReady s n) (illegal : k = 0 ∨ 255 < k.toNat ∨ rsv = true) :
    exec (.linkSet tag rsv k) s = .next ((s.taken n).adminComplete 0x38 tag .badParam 0) := by
  have testFails : (!rsv && decide (1 ≤ k.toNat ∧ k.toNat ≤ 255)) = false := by
    rcases illegal with zero | large | reserved
    · simp [zero]
    · simp [Nat.not_le.mpr large]
    · simp [reserved]
  rw [exec_linkSet_eq, returnCommand_ready ready, State.runLinkSet, testFails, execute_invalid, badParam_freed]

/-- R180: the effect touches neither the pool nor the device's state, and so the completion. -/
theorem conclude_setTimeout (o timeout : Nat) (outsideHalted : s.halted = false) :
    State.conclude s.sharedFree o tag (s.setTimeout timeout)
      = (s.withLink fun l => { l with timeout }).adminComplete o tag .ok 0 :=
  conclude_accept _ _ _ _ ((withLink_halted ..).trans outsideHalted) (sharedFree_withLink ..)

theorem exec_linkSet_legal (ready : CommandReady s n) (positive : 1 ≤ k.toNat) (small : k.toNat ≤ 255) :
    exec (.linkSet tag false k) s
      = .next (((s.taken n).withLink fun l => { l with timeout := k.toNat }).adminComplete 0x38 tag .ok 0) := by
  have testPasses : (!false && decide (1 ≤ k.toNat ∧ k.toNat ≤ 255)) = true := by simp [positive, small]
  rw [exec_linkSet_eq, returnCommand_ready ready, State.runLinkSet, testPasses, execute_readNone_freed,
    conclude_setTimeout _ _ (taken_not_halted ready)]

end LinkSet

/-! ### The timeout and the tags -/

section Timeout
variable {s t : State}

theorem timeout_of_outer (h : outer t = outer s) : t.link.timeout = s.link.timeout :=
  congrArg (fun x => x.2.2.2.2.2) h

@[simp] theorem react_tag (v : VNum) (r : Reaction) (m : TNum) : (s.react v r).tag m = s.tag m := by
  unfold State.react
  dsimp only
  split <;> rfl

@[simp] theorem adminComplete_tag (o : Nat) (tag : Tag) (a : AdminStatus) (d : Nat) (m : TNum) :
    (s.adminComplete o tag a d).tag m = s.tag m :=
  react_tag ..

theorem taken_tag_ne {n m : TNum} (h : m ≠ n) : (s.taken n).tag m = s.tag m := withTag_tag_ne _ _ _ _ h

theorem issueRead_tag_same (q : ReadRequest) (rest : List ReadRequest) (m : TNum) :
    (s.issueRead q rest m).tag m
      = .busy q (List.replicate q.len none) (1000 * s.link.timeout) (1000 * s.link.timeout) :=
  look_upd_same ..

/-! ### The resets -/

theorem powerUp_timeout (k : BitVec 2) : (s.powerUp k).link.timeout = 32 := (rfl)

theorem tryFunctionReset_timeout (outsideInit : s.device.st ≠ .init) : s.tryFunctionReset.link.timeout = 32 := by
  rw [State.tryFunctionReset, if_neg outsideInit]
  rfl

/-! ### The stop -/

theorem steady_closeAllWindows (s : State) (l : List PNum) : Steady s (s.closeAllWindows l) := by
  induction l generalizing s with
  | nil => exact .refl s
  | cons p l ih => exact (steady_closeWindows s p).trans (ih _)

/-- R191: after its entry to STOPPING the stop's step is steady. -/
theorem steady_beginStop (s : State) : Steady (s.withDevice fun d => { d with st := .stopping }) s.beginStop.1 := by
  unfold State.beginStop
  dsimp only
  refine .trans ?_ (.of_outer (outer_abortRound ..))
  refine .trans (.of_outer ?_) (steady_closeAllWindows ..)
  rfl

theorem endStop_timeout : s.endStop.link.timeout = s.link.timeout := by
  unfold State.endStop
  split <;> rfl

theorem finish_timeout (before : Nat) (ws : List Work) : (s.finish before ws).link.timeout = s.link.timeout :=
  calc (s.finish before ws).link.timeout
      _ = ((State.settle Config.innerBound s ws).reevaluate before).link.timeout := endStop_timeout
      _ = (State.settle Config.innerBound s ws).link.timeout := timeout_of_outer (outer_reevaluate ..)
      _ = s.link.timeout := (settle_steady ..).timeout

theorem exec_stop_timeout (h : exec .stop s = .next t) : t.link.timeout = s.link.timeout := by
  obtain rfl := Host.Outcome.next.inj h
  split
  · split
    · rfl
    · exact (finish_timeout ..).trans (steady_beginStop s).timeout
  · rfl

end Timeout

/-- Settles O35: the test of R180 decides between BAD_PARAM and the new timeout, which only a later issue reads; the
resets write 32, and a stop is steady but for the device's state. -/
theorem timeoutReplaced : Obligations.TimeoutReplaced := by
  refine ⟨fun s n tag rsv k ready => ⟨exec_linkSet_illegal ready, fun positive small unreserved => ?_⟩,
    fun s t k enable => ⟨fun c hc h => ?_, fun outsideInit c hc h => ?_, exec_stop_timeout⟩⟩
  · subst unreserved
    have replaced := exec_linkSet_legal (tag := tag) ready positive small
    refine ⟨replaced, fun t ht => ?_, fun q rest m => issueRead_tag_same ..⟩
    obtain rfl : _ = t := Host.Outcome.next.inj (replaced.symm.trans ht)
    refine ⟨timeout_of_outer (outer_adminComplete ..), fun m hm => ?_⟩
    exact (adminComplete_tag ..).trans (taken_tag_ne hm)
  · rcases List.mem_pair.mp hc with rfl | rfl
    all_goals
      obtain rfl : _ = t := Host.Outcome.next.inj h
      exact powerUp_timeout (s := s.scrubOn) k
  · rcases List.mem_pair.mp hc with rfl | rfl
    all_goals
      obtain rfl : _ = t := Host.Outcome.next.inj h
      exact tryFunctionReset_timeout outsideInit

end Sys2Proof.Machine.Proofs
end

section
/-! Which inner events could end in HALTED (R192): none, while no entry of the slot memory, the window table and the
partition table has a parity error. Each operation of a step keeps the device block and every entry's parity flag. -/

namespace Sys2Proof.Machine.Proofs

open Laws

/-! ### The updates of the state -/

/-- The device block is `d`, and no entry that an inner event could read has a parity error. -/
def Intact (d : Device) (s : State) : Prop := s.device = d ∧ TablesGood s

/-- A flag that every change of one entry keeps is kept in the whole table. -/
theorem forall_look_upd_iff {n : Nat} {α : Type} {flag : α → Bool} {v : Vector α n} {k : Fin n} {f : α → α}
    (kept : ∀ x, flag (f x) = flag x) : (∀ i, flag (look (upd v k f) i) = true) ↔ ∀ i, flag (look v i) = true := by
  refine forall_congr' fun i => ?_
  rw [look_upd]
  split
  next same => rw [kept, same]
  next => rfl

section Intact
variable {d : Device} {s : State}

@[simp] theorem intact_withAssembling (p : PNum) (a : Option Assembling) : Intact d (s.withAssembling p a) ↔ Intact d s := .rfl
@[simp] theorem intact_withPool (f : Pool → Pool) : Intact d (s.withPool f) ↔ Intact d s := .rfl
@[simp] theorem intact_withBuffer (b : BNum) (f : Buffer → Buffer) : Intact d (s.withBuffer b f) ↔ Intact d s := .rfl
@[simp] theorem intact_withPoster (f : Poster → Poster) : Intact d (s.withPoster f) ↔ Intact d s := .rfl
@[simp] theorem intact_withVector (v : VNum) (f : MsgVector → MsgVector) : Intact d (s.withVector v f) ↔ Intact d s := .rfl
@[simp] theorem intact_withEvents (f : EventRing → EventRing) : Intact d (s.withEvents f) ↔ Intact d s := .rfl
@[simp] theorem intact_withAdmin (f : Admin → Admin) : Intact d (s.withAdmin f) ↔ Intact d s := .rfl
@[simp] theorem intact_withLink (f : Link → Link) : Intact d (s.withLink f) ↔ Intact d s := .rfl
@[simp] theorem intact_drawn : Intact d s.drawn ↔ Intact d s := .rfl
@[simp] theorem intact_postWrite (w : PostedWrite) : Intact d (s.postWrite w) ↔ Intact d s := .rfl

@[simp] theorem intact_withSlot (i : SNum) (f : Slot → Slot) (kept : ∀ x, (f x).parityOk = x.parityOk) :
    Intact d (s.withSlot i f) ↔ Intact d s :=
  and_congr_right' (and_congr_left' (forall_look_upd_iff kept))

@[simp] theorem intact_withWindow (w : WNum) (f : Window → Window) (kept : ∀ x, (f x).parityOk = x.parityOk) :
    Intact d (s.withWindow w f) ↔ Intact d s :=
  and_congr_right' (and_congr_right' (and_congr_left' (forall_look_upd_iff kept)))

@[simp] theorem intact_withPart (p : PNum) (f : Partition → Partition) (kept : ∀ x, (f x).parityOk = x.parityOk) :
    Intact d (s.withPart p f) ↔ Intact d s :=
  and_congr_right' (and_congr_right' (and_congr_right' (forall_look_upd_iff kept)))

/-- A slot that returns to FREE has a good entry. -/
theorem Intact.slotFreed (h : Intact d s) (i : SNum) : Intact d (s.withSlot i fun _ => Slot.free) := by
  obtain ⟨device, slots, windows, parts⟩ := h
  refine ⟨device, fun j => ?_, windows, parts⟩
  rw [withSlot_slot]
  split
  · rfl
  · exact slots j

/-! ### Events, completions and the deferred table -/

@[simp] theorem intact_react (v : VNum) (r : Reaction) : Intact d (s.react v r) ↔ Intact d s := by
  unfold State.react
  dsimp only
  split <;> simp

@[simp] theorem intact_newRecord (v : VNum) (u : Bool) : Intact d (s.newRecord v u) ↔ Intact d s := intact_react ..

@[simp] theorem intact_handOver (e : Event) : Intact d (s.handOver e) ↔ Intact d s := by
  unfold State.handOver State.writeEvent
  split <;> simp

@[simp] theorem intact_adminComplete (o : Nat) (t : Tag) (a : AdminStatus) (k : Nat) :
    Intact d (s.adminComplete o t a k) ↔ Intact d s := by
  simp [State.adminComplete]

@[simp] theorem intact_setDeferred (i : Fin 8) (x : Option Deferred) : Intact d (s.setDeferred i x) ↔ Intact d s := .rfl

@[simp] theorem intact_reportDeferred (o : DeferOp) (n : Nat) (a : AdminStatus) :
    Intact d (s.reportDeferred o n a) ↔ Intact d s := by
  unfold State.reportDeferred
  split
  · rfl
  · split
    · rfl
    · split_ifs <;> simp

@[simp] theorem intact_evalWatermark : Intact d s.evalWatermark ↔ Intact d s := by
  unfold State.evalWatermark
  dsimp only
  split <;> simp

@[simp] theorem intact_reevaluate (n : Nat) : Intact d (s.reevaluate n) ↔ Intact d s := by
  unfold State.reevaluate
  split <;> simp

/-! ### Windows and card accesses -/

@[simp] theorem parityOk_freed (w : Window) : w.freed.parityOk = w.parityOk := (rfl)

@[simp] theorem parityOk_ownerClosed (w : Window) : w.ownerClosed.parityOk = w.parityOk := by
  unfold Window.ownerClosed
  split_ifs <;> rfl

@[simp] theorem intact_takeRefs (l : List WNum) : Intact d (s.takeRefs l) ↔ Intact d s := by
  induction l generalizing s with
  | nil => rfl
  | cons w l ih => simp [State.takeRefs, ih]

@[simp] theorem intact_dropRef (w : WNum) : Intact d (s.dropRef w) ↔ Intact d s := by
  unfold State.dropRef
  dsimp only
  split_ifs <;> simp

@[simp] theorem intact_dropRefs (l : List WNum) : Intact d (s.dropRefs l) ↔ Intact d s := by
  induction l generalizing s with
  | nil => rfl
  | cons w l ih => simp [State.dropRefs, ih]

theorem intact_presentAccess {t : State} {i : SNum} {k base len : Nat} {w : Option (List Byte)}
    (h : s.presentAccess i k base len w = .ok t) : Intact d t ↔ Intact d s := by
  unfold State.presentAccess at h
  split at h
  · cases h
  · cases h
    rfl

/-! ### Buffers -/

@[simp] theorem intact_leaveWaiting (i : SNum) : Intact d (s.leaveWaiting i) ↔ Intact d s := .rfl

@[simp] theorem intact_grantBuffer (b : BNum) (i : SNum) (p : PNum) : Intact d (s.grantBuffer b i p) ↔ Intact d s := by
  simp [State.grantBuffer]

@[simp] theorem intact_arbiterGrant (b : BNum) (p : PNum) (i : SNum) : Intact d (s.arbiterGrant b p i) ↔ Intact d s := by
  simp [State.arbiterGrant]

@[simp] theorem intact_freeUp (b : BNum) (p : PNum) : Intact d (s.freeUp b p) ↔ Intact d s := by
  simp [State.freeUp]

@[simp] theorem intact_releaseBuffer (b : BNum) (p : PNum) : Intact d (s.releaseBuffer b p).1 ↔ Intact d s := by
  unfold State.releaseBuffer
  dsimp only
  split <;> simp

@[simp] theorem intact_arbiterPass (n : Nat) : Intact d (State.arbiterPass n s).1 ↔ Intact d s := by
  induction n generalizing s with
  | zero => rfl
  | succ n ih =>
    unfold State.arbiterPass
    split
    · simp [ih]
    · rfl

@[simp] theorem intact_waitForBuffer (i : SNum) (p : PNum) : Intact d (s.waitForBuffer i p) ↔ Intact d s := by
  simp [State.waitForBuffer]

/-! ### Chunks -/

@[simp] theorem parityOk_dropChunk (x : Slot) (k : Nat) : (x.dropChunk k).parityOk = x.parityOk := (rfl)

@[simp] theorem parityOk_changeChunk (x : Slot) (k : Nat) (f : ChunkCtx → ChunkCtx) :
    (x.changeChunk k f).parityOk = x.parityOk := (rfl)

@[simp] theorem parityOk_countDone (x : Slot) (k : Nat) : (x.countDone k).parityOk = x.parityOk := by
  unfold Slot.countDone
  split <;> rfl

@[simp] theorem intact_askRead (r : Requester) (a : HostAddr) (n : Nat) : Intact d (s.askRead r a n) ↔ Intact d s := .rfl

@[simp] theorem intact_startChunk (i : SNum) (c : MemberCtx) (r : SubRecord) (op : Op) (b : Option BNum) :
    Intact d (s.startChunk i c r op b).1 ↔ Intact d s := by
  unfold State.startChunk
  cases op
  case mark => rfl
  case copyIn => simp
  all_goals
    dsimp only
    split
    · rfl
    · split
      · simp
      next issued => simp [intact_presentAccess issued]

@[simp] theorem intact_startChunks (i : SNum) : Intact d (s.startChunks i).1 ↔ Intact d s := by
  unfold State.startChunks
  dsimp only
  split
  · split_ifs
    · split <;> simp
    all_goals simp
  · rfl

@[simp] theorem intact_takeGrant (i : SNum) (b : BNum) : Intact d (s.takeGrant i b).1 ↔ Intact d s := by
  unfold State.takeGrant
  dsimp only
  split
  · split_ifs <;> simp
  · rfl

@[simp] theorem intact_endChunk (i : SNum) (k : Nat) (b : Bool) : Intact d (s.endChunk i k b).1 ↔ Intact d s := by
  unfold State.endChunk
  dsimp only
  split
  · rfl
  · cases b <;> split_ifs <;> simp

@[simp] theorem intact_enterCrc (i : SNum) (m : MemberCtx) (c : ChunkCtx) : Intact d (s.enterCrc i m c).1 ↔ Intact d s := by
  simp [State.enterCrc]

@[simp] theorem intact_handOverChunk (i : SNum) (r : SubRecord) (c : ChunkCtx) :
    Intact d (s.handOverChunk i r c).1 ↔ Intact d s := by
  simp [State.handOverChunk]

@[simp] theorem intact_writeChunk (i : SNum) (m : MemberCtx) (c : ChunkCtx) : Intact d (s.writeChunk i m c).1 ↔ Intact d s := by
  unfold State.writeChunk
  dsimp only
  split
  · rfl
  · split
    · rfl
    next issued => simp [intact_presentAccess issued]

@[simp] theorem intact_takeTurn (i : SNum) : Intact d (s.takeTurn i).1 ↔ Intact d s := by
  unfold State.takeTurn
  dsimp only
  split
  next op c _ _ _ _ =>
    by_cases turn : ((s.slot i).live && decide (c.phase = .held)) = true
    · rw [if_pos turn]
      cases op
      case copyOut =>
        dsimp only
        split_ifs <;> simp
      all_goals simp
    · rw [if_neg turn]
  next => rfl

@[simp] theorem intact_afterEnd (i : SNum) : Intact d (s.afterEnd i).1 ↔ Intact d s := by
  unfold State.afterEnd
  dsimp only
  split
  · rfl
  · split_ifs <;> rfl

/-! ### Members and groups -/

@[simp] theorem intact_startMember (i : SNum) : Intact d (s.startMember i).1 ↔ Intact d s := by
  unfold State.startMember
  dsimp only
  split
  · rfl
  · split_ifs
    · split <;> simp
    · rfl

@[simp] theorem intact_cutMember (i : SNum) : Intact d (s.cutMember i).1 ↔ Intact d s := by
  simp [State.cutMember, State.withdrawReads]

@[simp] theorem intact_failMember (i : SNum) (a : Status) (k : Nat) : Intact d (s.failMember i a k).1 ↔ Intact d s := by
  unfold State.failMember
  dsimp only
  split <;> simp

@[simp] theorem intact_endMember (i : SNum) : Intact d (s.endMember i).1 ↔ Intact d s := by
  unfold State.endMember
  dsimp only
  split
  · simp
  · simp
  · cases (s.slot i).ctx
    · dsimp only
      split <;> simp
    · dsimp only
      split_ifs <;> simp

@[simp] theorem parityOk_count (y : Partition) (a : Status) (n : Nat) : (y.count a n).parityOk = y.parityOk := by
  unfold Partition.count
  dsimp only
  split <;> rfl

@[simp] theorem parityOk_unreserve (y : Partition) : y.unreserve.parityOk = y.parityOk := (rfl)
@[simp] theorem parityOk_advanceCq (y : Partition) : y.advanceCq.parityOk = y.parityOk := (rfl)

@[simp] theorem intact_postGroup (i : SNum) (v : Verdict) : Intact d (s.postGroup i v) ↔ Intact d s := by
  unfold State.postGroup
  dsimp only
  split <;> simp

/-! ### Slots and partitions -/

theorem Intact.freeSlot (h : Intact d s) (i : SNum) : Intact d (s.freeSlot i).1 := by
  have freed : Intact d (s.withSlot i fun _ => Slot.free) := h.slotFreed i
  unfold State.freeSlot
  dsimp only
  split_ifs <;> simp [freed]

theorem Intact.tryRelease (h : Intact d s) (i : SNum) : Intact d (s.tryRelease i).1 := by
  unfold State.tryRelease
  dsimp only
  split
  · exact h.freeSlot i
  · exact h

theorem Intact.returnSlot (h : Intact d s) (i : SNum) : Intact d (s.returnSlot i).1 :=
  Intact.freeSlot (by simpa using h) i

@[simp] theorem intact_barrierRelease (p : PNum) : Intact d (s.barrierRelease p).1 ↔ Intact d s := by
  unfold State.barrierRelease
  dsimp only
  split
  · split <;> simp
  · rfl

@[simp] theorem intact_completionIssued (i : SNum) : Intact d (s.completionIssued i).1 ↔ Intact d s := by
  simp [State.completionIssued]

@[simp] theorem intact_endClosing (p : PNum) : Intact d (s.endClosing p).1 ↔ Intact d s := by
  simp [State.endClosing]

@[simp] theorem intact_answerClose (p : PNum) : Intact d (s.answerClose p) ↔ Intact d s := by
  unfold State.answerClose
  dsimp only
  split
  · rfl
  · rw [intact_reportDeferred]
    split <;> split_ifs <;> simp

@[simp] theorem intact_requestAbort (a : AbortDetail) (l : List SNum) : Intact d (s.requestAbort a l) ↔ Intact d s := by
  induction l generalizing s with
  | nil => rfl
  | cons i l ih => simp [State.requestAbort, ih]

@[simp] theorem intact_abortRound (a : AbortDetail) (l : List SNum) : Intact d (s.abortRound a l).1 ↔ Intact d s := by
  simp [State.abortRound]

@[simp] theorem intact_orphanReads (i : SNum) : Intact d (s.orphanReads i) ↔ Intact d s := .rfl

@[simp] theorem intact_takeAbort (i : SNum) (a : AbortDetail) : Intact d (s.takeAbort i a).1 ↔ Intact d s := by
  unfold State.takeAbort
  dsimp only
  cases (s.slot i).st with
  | assembling =>
    dsimp only
    split_ifs <;> simp
  | _ => simp

@[simp] theorem intact_takeFault (p : PNum) (c : FaultCause) : Intact d (s.takeFault p c).1 ↔ Intact d s := by
  unfold State.takeFault
  split <;> simp

@[simp] theorem intact_reportFault (p : PNum) (c : FaultCause) : Intact d (s.reportFault p c) ↔ Intact d s := by
  simp [State.reportFault]

/-! ### The inner events together -/

theorem Intact.doWork (h : Intact d s) (w : Work) : Intact d (s.doWork w).1 := by
  cases w with
  | release98 i => exact h.tryRelease i
  | returnSlot i => exact h.returnSlot i
  | _ => simpa [State.doWork] using h

theorem Intact.workStep (h : Intact d s) (outsideHalted : d.st ≠ .halted) (w : Work) : Intact d (s.workStep w).1 := by
  have kept : Intact d (s.doWork w).1 := h.doWork w
  obtain ⟨device, slots, windows, parts⟩ := h
  have notHalted : s.halted = false := decide_eq_false (device ▸ outsideHalted)
  rwa [workStep_allGood slots windows parts w notHalted]

theorem Intact.settle (h : Intact d s) (outsideHalted : d.st ≠ .halted) (n : Nat) (ws : List Work) :
    Intact d (State.settle n s ws) := by
  induction n generalizing s ws with
  | zero => exact h
  | succ n ih =>
    cases ws with
    | nil => exact h
    | cons w ws => exact ih (h.workStep outsideHalted w) _

end Intact

end Sys2Proof.Machine.Proofs
end

section
/-! Writes to CONTROL and the read of it (R185): the stop (R191), the enable attempt (R190) and the two function resets
(R193). -/

namespace Sys2Proof.Machine.Proofs

open Laws

/-! ### The stop -/

section Stop
variable {d : Device} {s : State}

/-- R191: the end of a stop leaves STOPPING for nothing but READY. -/
theorem endStop_stopping_or_ready (stopping : s.device.st = .stopping) :
    s.endStop.device.st = .stopping ∨ s.endStop.device.st = .ready := by
  rcases endStop_cases s with same | ⟨-, ready, -, -⟩
  · exact .inl (same.symm ▸ stopping)
  · exact .inr ready

theorem finish_stopping_or_ready (h : Intact d s) (stopping : d.st = .stopping) (before : Nat) (ws : List Work) :
    (s.finish before ws).device.st = .stopping ∨ (s.finish before ws).device.st = .ready := by
  have outsideHalted : d.st ≠ .halted := by simp [stopping]
  obtain ⟨device, -⟩ : Intact d ((State.settle Config.innerBound s ws).reevaluate before) :=
    (intact_reevaluate _).mpr (h.settle outsideHalted ..)
  exact endStop_stopping_or_ready (device ▸ stopping)

@[simp] theorem parityOk_stopped (y : Partition) : y.stopped.parityOk = y.parityOk := by
  unfold Partition.stopped
  split <;> rfl

@[simp] theorem intact_closeWindows (p : PNum) : Intact d (s.closeWindows p) ↔ Intact d s := by
  refine and_congr_right' (and_congr_right' (and_congr_left' (forall_congr' fun w => ?_)))
  simp only [State.closeWindows, State.window, look_mapTab]
  split <;> simp

@[simp] theorem intact_closeAllWindows (l : List PNum) : Intact d (s.closeAllWindows l) ↔ Intact d s := by
  induction l generalizing s with
  | nil => rfl
  | cons p l ih => simp [State.closeAllWindows, ih]

/-- R191: the stop's step enters STOPPING and keeps every entry's parity flag. -/
theorem intact_beginStop (good : TablesGood s) : Intact { s.device with st := .stopping } s.beginStop.1 := by
  obtain ⟨slots, windows, parts⟩ := good
  unfold State.beginStop
  simp only [intact_abortRound, intact_closeAllWindows]
  refine ⟨rfl, slots, windows, fun p => ?_⟩
  simpa [State.part, State.discardAnswers] using parts p

theorem exec_stop_notRunning (notRunning : s.device.st ≠ .running) : exec .stop s = .next s :=
  congrArg Host.Outcome.next (if_neg (mt of_decide_eq_true notRunning))

/-- R191: with the tables good a stop in RUNNING is carried out. -/
theorem exec_stop_running (running : s.device.st = .running) (good : TablesGood s) :
    exec .stop s = .next (s.beginStop.1.finish s.sharedFree s.beginStop.2) := by
  obtain ⟨slots, windows, parts⟩ := good
  refine congrArg Host.Outcome.next ((if_pos (decide_eq_true running)).trans ?_)
  rw [parityError_allGood slots windows parts]

end Stop

/-! ### The enable attempt -/

section EnableAttempt
variable {s : State}

theorem exec_enableAttempt_notReady (notReady : s.device.st ≠ .ready) : exec .enableAttempt s = .next s :=
  congrArg Host.Outcome.next (if_neg notReady)

end EnableAttempt

/-! ### The function resets -/

section FunctionReset
variable {s : State}

theorem exec_functionReset_eq (enable : Bool) : exec (.functionReset enable) s = .next s.tryFunctionReset := (rfl)

theorem exec_pcieFunctionLevelReset_eq : exec .pcieFunctionLevelReset s = .next s.tryFunctionReset := (rfl)

theorem tryFunctionReset_init (inInit : s.device.st = .init) : s.tryFunctionReset = s := if_pos inInit

theorem tryFunctionReset_eq (outsideInit : s.device.st ≠ .init) : s.tryFunctionReset = s.functionReset := if_neg outsideInit

theorem functionReset_window (w : WNum) : s.functionReset.window w = (s.window w).functionReset := look_mapTab ..

theorem functionReset_fence (f : FNum) :
    s.functionReset.fence f = (s.fence f).functionReset s.fences.locked := look_mapTab ..

theorem functionReset_buffer (b : BNum) : s.functionReset.buffer b = { s.buffer b with owner := none } := look_mapTab ..

theorem functionReset_tag (n : TNum) : s.functionReset.tag n = (s.tag n).onFunctionReset := look_mapTab ..

theorem functionReset_part (p : PNum) : s.functionReset.part p = Partition.reset := look_replicate ..

theorem functionReset_slot (i : SNum) : s.functionReset.slot i = Slot.free := look_replicate ..

theorem functionReset_vector (v : VNum) : s.functionReset.vector v = MsgVector.reset := look_replicate ..

theorem functionReset_assembling (p : PNum) : s.functionReset.assembling p = none := look_replicate ..

theorem partitionAtReset_reset : PartitionAtReset Partition.reset := by
  simp [PartitionAtReset, Partition.reset, Dispositions.default]

/-- R193: the function reset of every block is what the blocks' chapters state. -/
theorem functionResetBlocks_functionReset (s : State) : FunctionResetBlocks s s.functionReset := by
  refine ⟨rfl, rfl, fun w locked => ?_, fun w unlocked => ?_, rfl, fun locked => ⟨fun f => ?_, if_pos locked⟩,
    fun unlocked => ⟨fun f => ?_, if_neg (ne_true_of_eq_false unlocked)⟩, fun p => ?_, rfl, functionReset_assembling,
    fun i => ?_, rfl, fun b => ?_, rfl, rfl, rfl, rfl, rfl, functionReset_vector, rfl, rfl, rfl, rfl, rfl, fun n => ?_, rfl⟩
  · rw [functionReset_window, Window.functionReset, if_pos locked]
  · rw [functionReset_window, Window.functionReset, if_neg unlocked]
    exact ⟨rfl, rfl, rfl⟩
  · rw [functionReset_fence, Fence.functionReset, if_pos locked]
  · rw [functionReset_fence, Fence.functionReset, if_neg (ne_true_of_eq_false unlocked)]
  · rw [functionReset_part]
    exact partitionAtReset_reset
  · rw [functionReset_slot]
    rfl
  · rw [functionReset_buffer]
    exact ⟨rfl, rfl⟩
  · rw [functionReset_tag]
    cases s.tag n <;> rfl

end FunctionReset

/-! ### The register -/

theorem readRegister_control_eq (s : State) : s.readRegister 0x004 = s.controlValue := (rfl)

/-- R185: a read of CONTROL. -/
theorem readRegister_control (s : State) : s.readRegister 0x004 = if s.device.st = .running then 1 else 0 := by
  rw [readRegister_control_eq, State.controlValue, State.running]
  by_cases running : s.device.st = .running
  · simp [bit, running]
  · simp [bit, running]

/-- Settles O5: INIT alone keeps the function resets out, READY alone takes an enable attempt and RUNNING alone a stop; with
the tables good nothing in a stop's step can halt the device, so it ends in STOPPING or READY. -/
theorem controlWrites : Obligations.ControlWrites := by
  intro enable s
  refine ⟨fun inInit => ⟨?_, ?_⟩, fun outsideInit => ⟨s.functionReset, ?_, ?_, functionResetBlocks_functionReset s, rfl⟩,
    fun ready => ?_, exec_enableAttempt_notReady, fun running good => ?_, exec_stop_notRunning, ?_⟩
  · rw [exec_functionReset_eq, tryFunctionReset_init inInit]
  · rw [exec_pcieFunctionLevelReset_eq, tryFunctionReset_init inInit]
  · rw [exec_functionReset_eq, tryFunctionReset_eq outsideInit]
  · rw [exec_pcieFunctionLevelReset_eq, tryFunctionReset_eq outsideInit]
  · refine ⟨_, exec_enableAttempt_ready ready, ?_⟩
    split
    · exact .inl ⟨rfl, rfl⟩
    · exact .inr ⟨ready, rfl⟩
  · exact ⟨_, exec_stop_running running good, finish_stopping_or_ready (intact_beginStop good) rfl ..⟩
  · exact readRegister_control s

end Sys2Proof.Machine.Proofs
end

section
/-! What a report leaves: an event, a completion or a message touches the write store, the vectors, the event ring, the poster
and the admin channel, and no block besides. -/

namespace Sys2Proof.Machine.Proofs

open Laws

/-- The blocks that no report touches. -/
def blocks (s : State) : Device × Card × Vector Window 64 × FenceUnit × Vector Partition 16 × Scheduler × Vector Slot 32 × Pool :=
  (s.device, s.card, s.windows, s.fences, s.parts, s.sched, s.slots, s.pool)

section Blocks
variable (s : State)

@[simp] theorem blocks_withPoster (f : Poster → Poster) : blocks (s.withPoster f) = blocks s := (rfl)
@[simp] theorem blocks_withEvents (f : EventRing → EventRing) : blocks (s.withEvents f) = blocks s := (rfl)
@[simp] theorem blocks_withAdmin (f : Admin → Admin) : blocks (s.withAdmin f) = blocks s := (rfl)
@[simp] theorem blocks_withLink (f : Link → Link) : blocks (s.withLink f) = blocks s := (rfl)
@[simp] theorem blocks_withTag (n : TNum) (f : TagState → TagState) : blocks (s.withTag n f) = blocks s := (rfl)
@[simp] theorem blocks_withVector (v : VNum) (f : MsgVector → MsgVector) : blocks (s.withVector v f) = blocks s := (rfl)
@[simp] theorem blocks_postWrite (w : PostedWrite) : blocks (s.postWrite w) = blocks s := (rfl)
@[simp] theorem blocks_setDeferred (i : Fin 8) (d : Option Deferred) : blocks (s.setDeferred i d) = blocks s := (rfl)
@[simp] theorem blocks_takeDeferred (i : Fin 8) (o : DeferOp) (t : Tag) (n : Nat) :
    blocks (s.takeDeferred i o t n) = blocks s := (rfl)
@[simp] theorem blocks_discardAnswers : blocks s.discardAnswers = blocks s := (rfl)
@[simp] theorem blocks_commandRead : blocks s.commandRead = blocks s := (rfl)

@[simp] theorem blocks_react (v : VNum) (r : Reaction) : blocks (s.react v r) = blocks s := by
  unfold State.react
  dsimp only
  split <;> simp

@[simp] theorem blocks_newRecord (v : VNum) (u : Bool) : blocks (s.newRecord v u) = blocks s := blocks_react ..
@[simp] theorem blocks_consumeWrite (v : VNum) : blocks (s.consumeWrite v) = blocks s := blocks_react ..

@[simp] theorem blocks_handOver (e : Event) : blocks (s.handOver e) = blocks s := by
  unfold State.handOver State.writeEvent
  split <;> simp

@[simp] theorem blocks_adminComplete (o : Nat) (t : Tag) (a : AdminStatus) (d : Nat) :
    blocks (s.adminComplete o t a d) = blocks s := by
  simp [State.adminComplete]

@[simp] theorem blocks_reportDeferred (o : DeferOp) (n : Nat) (a : AdminStatus) :
    blocks (s.reportDeferred o n a) = blocks s := by
  unfold State.reportDeferred
  split
  · rfl
  · split
    · rfl
    · split_ifs <;> simp

end Blocks

section Fields
variable {s t : State} (h : blocks t = blocks s)
include h

theorem device_of_blocks : t.device = s.device := congrArg (fun x => x.1) h
theorem card_of_blocks : t.card = s.card := congrArg (fun x => x.2.1) h
theorem windows_of_blocks : t.windows = s.windows := congrArg (fun x => x.2.2.1) h
theorem fences_of_blocks : t.fences = s.fences := congrArg (fun x => x.2.2.2.1) h
theorem parts_of_blocks : t.parts = s.parts := congrArg (fun x => x.2.2.2.2.1) h
theorem sched_of_blocks : t.sched = s.sched := congrArg (fun x => x.2.2.2.2.2.1) h
theorem slots_of_blocks : t.slots = s.slots := congrArg (fun x => x.2.2.2.2.2.2.1) h
theorem pool_of_blocks : t.pool = s.pool := congrArg (fun x => x.2.2.2.2.2.2.2) h

theorem window_of_blocks (w : WNum) : t.window w = s.window w := congrArg (look · w) (windows_of_blocks h)
theorem fence_of_blocks (f : FNum) : t.fence f = s.fence f := congrArg (fun x : FenceUnit => look x.entries f) (fences_of_blocks h)
theorem part_of_blocks (p : PNum) : t.part p = s.part p := congrArg (look · p) (parts_of_blocks h)
theorem slot_of_blocks (i : SNum) : t.slot i = s.slot i := congrArg (look · i) (slots_of_blocks h)
theorem buffer_of_blocks (b : BNum) : t.buffer b = s.buffer b := congrArg (fun x : Pool => look x.buffers b) (pool_of_blocks h)
theorem assembling_of_blocks (p : PNum) : t.assembling p = s.assembling p :=
  congrArg (fun x : Scheduler => look x.assembling p) (sched_of_blocks h)

end Fields

end Sys2Proof.Machine.Proofs
end

section
/-! Laws of every command (R8, R13, R29, R105 and the form of card memory): what such laws depend on, and that a relation which
the inner events and the effects of the administrative commands keep is kept by every command that does not come to card memory. -/

namespace Sys2Proof.Machine.Proofs

open Laws

/-! ### What the laws depend on -/

/-- Card memory with its marks, the windows, the fences, and the pool's account: all that the laws of every step speak of. -/
def ledger (s : State) : List Host.Cell × List Nat × Vector Window 64 × FenceUnit × Nat × Nat :=
  (s.card.mem, s.card.marks, s.windows, s.fences, s.deficits, s.pool.free)

section Ledger
variable (s : State)

@[simp] theorem ledger_withDevice (f : Device → Device) : ledger (s.withDevice f) = ledger s := (rfl)
@[simp] theorem ledger_withSched (f : Scheduler → Scheduler) : ledger (s.withSched f) = ledger s := (rfl)
@[simp] theorem ledger_withPoster (f : Poster → Poster) : ledger (s.withPoster f) = ledger s := (rfl)
@[simp] theorem ledger_withEvents (f : EventRing → EventRing) : ledger (s.withEvents f) = ledger s := (rfl)
@[simp] theorem ledger_withAdmin (f : Admin → Admin) : ledger (s.withAdmin f) = ledger s := (rfl)
@[simp] theorem ledger_withLink (f : Link → Link) : ledger (s.withLink f) = ledger s := (rfl)
@[simp] theorem ledger_withSlot (i : SNum) (f : Slot → Slot) : ledger (s.withSlot i f) = ledger s := (rfl)
@[simp] theorem ledger_withVector (v : VNum) (f : MsgVector → MsgVector) : ledger (s.withVector v f) = ledger s := (rfl)
@[simp] theorem ledger_withBuffer (b : BNum) (f : Buffer → Buffer) : ledger (s.withBuffer b f) = ledger s := (rfl)
@[simp] theorem ledger_withTag (n : TNum) (f : TagState → TagState) : ledger (s.withTag n f) = ledger s := (rfl)
@[simp] theorem ledger_withAssembling (p : PNum) (a : Option Assembling) : ledger (s.withAssembling p a) = ledger s := (rfl)
@[simp] theorem ledger_withPending (q : List Instr) : ledger (s.withPending q) = ledger s := (rfl)
@[simp] theorem ledger_drawn : ledger s.drawn = ledger s := (rfl)
@[simp] theorem ledger_postWrite (w : PostedWrite) : ledger (s.postWrite w) = ledger s := (rfl)
@[simp] theorem ledger_askRead (r : Requester) (a : HostAddr) (n : Nat) : ledger (s.askRead r a n) = ledger s := (rfl)
@[simp] theorem ledger_issueRead (q : ReadRequest) (l : List ReadRequest) (n : TNum) :
    ledger (s.issueRead q l n) = ledger s := (rfl)
@[simp] theorem ledger_setDeferred (i : Fin 8) (d : Option Deferred) : ledger (s.setDeferred i d) = ledger s := (rfl)
@[simp] theorem ledger_takeDeferred (i : Fin 8) (o : DeferOp) (t : Tag) (n : Nat) :
    ledger (s.takeDeferred i o t n) = ledger s := (rfl)
@[simp] theorem ledger_discardAnswers : ledger s.discardAnswers = ledger s := (rfl)
@[simp] theorem ledger_enterHalted (c : HaltCause) : ledger (s.enterHalted c) = ledger s := (rfl)
@[simp] theorem ledger_rejectNotify : ledger s.rejectNotify = ledger s := (rfl)
@[simp] theorem ledger_commandRead : ledger s.commandRead = ledger s := (rfl)

/-- An update of the pool that leaves the count of free buffers. -/
@[simp] theorem ledger_withPool (f : Pool → Pool) (free : (f s.pool).free = s.pool.free) :
    ledger (s.withPool f) = ledger s := by
  simp only [ledger, withPool_card, withPool_windows, withPool_fences, withPool_pool, free]
  rfl

theorem deficits_withPart (p : PNum) (f : Partition → Partition) (kept : (f (s.part p)).deficit = (s.part p).deficit) :
    (s.withPart p f).deficits = s.deficits := by
  refine congrArg total (funext fun q => ?_)
  rw [withPart_part]
  split
  next same => rw [kept, same]
  next => rfl

/-- An update of a partition entry that leaves its deficit. -/
@[simp] theorem ledger_withPart (p : PNum) (f : Partition → Partition) (kept : (f (s.part p)).deficit = (s.part p).deficit) :
    ledger (s.withPart p f) = ledger s := by
  simp only [ledger, withPart_card, withPart_windows, withPart_fences, withPart_pool, deficits_withPart s p f kept]

@[simp] theorem ledger_react (v : VNum) (r : Reaction) : ledger (s.react v r) = ledger s := by
  unfold State.react
  dsimp only
  split <;> simp

@[simp] theorem ledger_newRecord (v : VNum) (u : Bool) : ledger (s.newRecord v u) = ledger s := ledger_react ..
@[simp] theorem ledger_consumeWrite (v : VNum) : ledger (s.consumeWrite v) = ledger s := ledger_react ..

@[simp] theorem ledger_writeEvent (e : Event) : ledger (s.writeEvent e) = ledger s := by
  simp [State.writeEvent]

@[simp] theorem ledger_handOver (e : Event) : ledger (s.handOver e) = ledger s := by
  unfold State.handOver
  split <;> simp

@[simp] theorem ledger_writeLost : ledger s.writeLost = ledger s := by
  simp [State.writeLost]

@[simp] theorem ledger_adminComplete (o : Nat) (t : Tag) (a : AdminStatus) (d : Nat) :
    ledger (s.adminComplete o t a d) = ledger s := by
  simp [State.adminComplete]

@[simp] theorem ledger_badParam (o : Nat) (t : Tag) : ledger (s.badParam o t) = ledger s := by
  simp [State.badParam]

@[simp] theorem ledger_reportDeferred (o : DeferOp) (n : Nat) (a : AdminStatus) :
    ledger (s.reportDeferred o n a) = ledger s := by
  unfold State.reportDeferred
  split
  · rfl
  · split
    · rfl
    · split_ifs <;> simp

@[simp] theorem ledger_evalWatermark : ledger s.evalWatermark = ledger s := by
  unfold State.evalWatermark
  dsimp only
  split <;> simp

@[simp] theorem ledger_reevaluate (n : Nat) : ledger (s.reevaluate n) = ledger s := by
  unfold State.reevaluate
  split <;> simp

@[simp] theorem ledger_endStop : ledger s.endStop = ledger s := by
  unfold State.endStop
  split <;> simp

@[simp] theorem ledger_elapse (n : Nat) : ledger (s.elapse n) = ledger s := by
  unfold State.elapse
  dsimp only
  split <;> rfl

@[simp] theorem ledger_discardCommandRead : ledger s.discardCommandRead = ledger s := by
  simp [State.discardCommandRead]

@[simp] theorem ledger_channelFault (c : ChannelFault) : ledger (s.channelFault c) = ledger s := by
  unfold State.channelFault
  split <;> simp

@[simp] theorem ledger_commandFailure : ledger s.commandFailure = ledger s := by
  unfold State.commandFailure
  split <;> simp

@[simp] theorem ledger_eventHead (n : Nat) : ledger (s.eventHead n) = ledger s := by
  unfold State.eventHead
  dsimp only
  split_ifs <;> simp

@[simp] theorem ledger_setEventRing (n : Nat) (b : HostAddr) : ledger (s.setEventRing n b) = ledger s := by
  unfold State.setEventRing
  dsimp only
  split <;> simp

@[simp] theorem ledger_takeAdminTail (n : Nat) : ledger (s.takeAdminTail n) = ledger s := by
  unfold State.takeAdminTail
  split <;> simp

@[simp] theorem ledger_takeAdminHead (n : Nat) : ledger (s.takeAdminHead n) = ledger s := by
  unfold State.takeAdminHead
  split <;> simp

@[simp] theorem ledger_readRecord (p : PNum) (i : SNum) (n : Nat) : ledger (s.readRecord p i n) = ledger s := by
  simp [State.readRecord]

@[simp] theorem ledger_resumeAssembly (p : PNum) : ledger (s.resumeAssembly p) = ledger s := by
  unfold State.resumeAssembly
  dsimp only
  split
  · split <;> simp
  · rfl

@[simp] theorem ledger_takeSqTail (p : PNum) (n : Nat) : ledger (s.takeSqTail p n).1 = ledger s := by
  have recorded : ledger (s.withPart p fun y => { y with sqTail := n }) = ledger s := ledger_withPart s p _ rfl
  unfold State.takeSqTail
  dsimp only
  split
  · simp
  all_goals split_ifs <;> simp [recorded]

@[simp] theorem ledger_takeCqHead (p : PNum) (n : Nat) : ledger (s.takeCqHead p n).1 = ledger s := by
  have recorded : ledger (s.withPart p fun y => { y with cqHead := n }) = ledger s := ledger_withPart s p _ rfl
  unfold State.takeCqHead
  dsimp only
  split
  · simp
  all_goals split_ifs <;> simp [recorded]

@[simp] theorem ledger_serve (p : PNum) (i : SNum) : ledger (s.serve p i) = ledger s := by
  have counted : ∀ u : State, ledger (u.withPart p fun y => { y with slotsHeld := y.slotsHeld + 1, cqReserved := y.cqReserved + 1 })
      = ledger u := fun u => ledger_withPart u p _ rfl
  simp [State.serve, counted]

/-! ### Ends of host reads -/

@[simp] theorem ledger_appendRecord (p : PNum) (i : SNum) (r : SubRecord) : ledger (s.appendRecord p i r) = ledger s :=
  (ledger_withPart _ p _ rfl).trans (ledger_withSlot ..)

@[simp] theorem ledger_enterWaitOrder (p : PNum) (i : SNum) : ledger (s.enterWaitOrder p i).1 = ledger s := by
  unfold State.enterWaitOrder
  dsimp only
  split <;> simp

@[simp] theorem ledger_recordReturn (p : PNum) (i : SNum) (a : Assembling) (r : SubRecord) :
    ledger (s.recordReturn p i a r).1 = ledger s := by
  unfold State.recordReturn
  dsimp only
  split_ifs <;> simp

@[simp] theorem ledger_recordFailure (p : PNum) (i : SNum) (a : Assembling) : ledger (s.recordFailure p i a).1 = ledger s := (rfl)

@[simp] theorem ledger_endChunk (i : SNum) (k : Nat) (b : Bool) : ledger (s.endChunk i k b).1 = ledger s := by
  unfold State.endChunk
  dsimp only
  split
  · rfl
  · split_ifs <;> simp

@[simp] theorem ledger_copyInReturn (i : SNum) (k place : Nat) (bytes : List Byte) :
    ledger (s.copyInReturn i k place bytes).1 = ledger s := by
  unfold State.copyInReturn
  dsimp only
  split
  · rfl
  · split_ifs <;> (try split) <;> simp

@[simp] theorem ledger_copyInFailure (i : SNum) (k d : Nat) : ledger (s.copyInFailure i k d).1 = ledger s := by
  unfold State.copyInFailure
  dsimp only
  split
  · rfl
  · split_ifs <;> simp

/-! ### Ends of card accesses -/

@[simp] theorem ledger_takeReadData (i : SNum) (k : Nat) (bytes : List Byte) : ledger (s.takeReadData i k bytes).1 = ledger s := by
  unfold State.takeReadData
  dsimp only
  split
  · rfl
  · split_ifs <;> (try split) <;> simp

@[simp] theorem ledger_takeEccError (i : SNum) (k : Nat) : ledger (s.takeEccError i k).1 = ledger s := by
  unfold State.takeEccError
  split
  · rfl
  · split_ifs <;> simp

/-! ### Posted writes and the error path -/

@[simp] theorem ledger_writeIssued (k : WriteKind) : ledger (s.writeIssued k).1 = ledger s := by
  unfold State.writeIssued
  split
  · rfl
  · split <;> simp
  all_goals rfl

@[simp] theorem ledger_issueFirst (w : PostedWrite) : ledger (s.issueFirst w).1 = ledger s := by
  unfold State.issueFirst
  dsimp only
  split <;> simp

@[simp] theorem ledger_errorPath (i : SNum) (v : Verdict) (c : ErrorClass) (t : Tag) :
    ledger (s.errorPath i v c t).1 = ledger s := by
  unfold State.errorPath
  dsimp only
  split <;> simp

end Ledger
end Sys2Proof.Machine.Proofs
end

section
/-! From the inner events and the effects of the administrative commands to every command: a relation between the states before
and after that all of them keep. -/

namespace Sys2Proof.Machine.Proofs

open Laws

/-- A relation that every operation on the ledger keeps: the inner events, the end of an access record, the function reset, the
beginning of a stop and the effects of the administrative commands. -/
structure StepLaw (R : State → State → Prop) : Prop where
  trans {s t u : State} : R s t → R t u → R s u
  same {s t : State} : ledger t = ledger s → R s t
  work (s : State) (w : Work) : R s (s.doWork w).1
  endRecord (s : State) (id : Nat) : R s (s.endRecord id)
  functionReset (s : State) : R s s.functionReset
  closeWindows (s : State) (p : PNum) : R s (s.closeWindows p)
  openPartition (s : State) (p : PNum) (sqLog cqLog depth reserve limit : Nat) (sqBase cqBase : HostAddr) :
    R s (s.openPartition p sqLog cqLog depth reserve limit sqBase cqBase).1
  setPool (s : State) (p : PNum) (reserve limit : Nat) : R s (s.setPool p reserve limit).1
  openWindow (s : State) (w : WNum) (p : PNum) (base length : Nat) (a : Access) : R s (s.openWindow w p base length a).1
  lockWindow (s : State) (w : WNum) : R s (s.lockWindow w).1
  closeWindow (s : State) (w : WNum) (tag : Tag) : R s (s.closeWindow w tag).1
  setFence (s : State) (f : FNum) (base length : Nat) (tag : Tag) : R s (s.setFence f base length tag).1
  clearFence (s : State) (f : FNum) : R s (s.clearFence f).1
  lockFences (s : State) : R s s.lockFences.1

namespace StepLaw
variable {R : State → State → Prop} (law : StepLaw R)
include law

theorem refl (s : State) : R s s := law.same rfl

/-- An operation that leaves the ledger, after others. -/
theorem before {s t u : State} (h : R s t) (kept : ledger u = ledger t) : R s u := law.trans h (law.same kept)

/-- An operation that leaves the ledger, before others. -/
theorem after {s t u : State} (kept : ledger t = ledger s) (h : R t u) : R s u := law.trans (law.same kept) h

/-! ### The inner events of a step -/

theorem workStep (s : State) (w : Work) : R s (s.workStep w).1 := by
  unfold State.workStep
  split
  · exact law.refl s
  · dsimp only
    split
    · exact law.same (ledger_enterHalted ..)
    · exact law.work s w

theorem settle (n : Nat) (s : State) (ws : List Work) : R s (State.settle n s ws) := by
  induction n generalizing s ws with
  | zero => exact law.refl s
  | succ n ih =>
    cases ws with
    | nil => exact law.refl s
    | cons w ws => exact law.trans (law.workStep s w) (ih _ _)

theorem finish (s : State) (before : Nat) (ws : List Work) : R s (s.finish before ws) :=
  law.before (law.settle Config.innerBound s ws) (by simp [State.finish])

/-- An act that leaves the ledger, and the step's inner events after it. -/
theorem finish_of {s t : State} (kept : ledger t = ledger s) (before : Nat) (ws : List Work) : R s (t.finish before ws) :=
  law.after kept (law.finish t before ws)

theorem atSlot (s : State) (i : SNum) (parts : List PNum) (act : State → Inner) (kept : ledger (act s).1 = ledger s) :
    R s (s.atSlot i parts act) := by
  unfold State.atSlot
  split
  · exact law.same (ledger_enterHalted ..)
  · exact law.finish_of kept ..

theorem notifyPart (s : State) (p : PNum) (act : State → Inner) (kept : ledger (act s).1 = ledger s) :
    R s (s.notifyPart p act) := by
  unfold State.notifyPart
  split
  · exact law.same (ledger_rejectNotify s)
  · split
    · exact law.same (ledger_enterHalted ..)
    · exact law.finish_of kept ..

theorem endAtSlot (n : Nat) (s : State) (o : CardOp) (act : State → SNum → Nat → Inner)
    (kept : ∀ i k, ledger (act s i k).1 = ledger s) : R s (s.endAtSlot n o act) := by
  unfold State.endAtSlot
  split
  · exact law.refl s
  · split_ifs
    · exact law.refl s
    · split
      · exact law.same (ledger_enterHalted ..)
      · exact law.finish_of (kept ..) ..

theorem endAccess (s : State) (id : Nat) : R s (s.endAccess id) := law.after (t := s.withCard fun c => c.drop id) rfl (law.endRecord _ id)

/-! ### The effects of the administrative commands -/

theorem conclude {s : State} {e : Effect} (h : R s e.1) (before opcode : Nat) (tag : Tag) :
    R s (State.conclude before opcode tag e) := by
  have settled : R s ((State.settle Config.innerBound e.1 e.2.1).reevaluate before) :=
    law.before (law.trans h (law.settle ..)) (ledger_reevaluate ..)
  unfold State.conclude
  dsimp only
  split
  · exact settled
  · split
    · exact settled
    · exact law.before settled (ledger_adminComplete ..)

theorem execute (s : State) (opcode : Nat) (tag : Tag) (valid : Bool) (reads : State → Option HaltCause) (effect : State → Effect)
    (kept : ∀ s, R s (effect s).1) : R s (s.execute opcode tag valid reads effect) := by
  unfold State.execute
  split
  · exact law.same (ledger_badParam ..)
  · split
    · exact law.same (ledger_enterHalted ..)
    · exact law.conclude (law.after (ledger_commandRead s) (kept _)) ..

theorem executePart (s : State) (opcode : Nat) (tag : Tag) (valid : Bool) (n : BitVec 8) (reads : State → PNum → Option HaltCause)
    (effect : State → PNum → Effect) (kept : ∀ s p, R s (effect s p).1) : R s (s.executePart opcode tag valid n reads effect) := by
  unfold State.executePart
  split
  · exact law.same (ledger_badParam ..)
  · exact law.execute _ _ _ _ _ _ fun s => kept s _

theorem executeWindow (s : State) (opcode : Nat) (tag : Tag) (rsv : Bool) (n : BitVec 8) (effect : State → WNum → Effect)
    (kept : ∀ s w, R s (effect s w).1) : R s (s.executeWindow opcode tag rsv n effect) := by
  unfold State.executeWindow
  split
  · exact law.same (ledger_badParam ..)
  · exact law.execute _ _ _ _ _ _ fun s => kept s _

theorem executeFence (s : State) (opcode : Nat) (tag : Tag) (valid : Bool) (n : BitVec 8) (effect : State → FNum → Effect)
    (kept : ∀ s f, R s (effect s f).1) : R s (s.executeFence opcode tag valid n effect) := by
  unfold State.executeFence
  split
  · exact law.same (ledger_badParam ..)
  · exact law.execute _ _ _ _ _ _ fun s => kept s _

theorem quiescePartition (s : State) (p : PNum) (tag : Tag) : R s (s.quiescePartition p tag).1 := by
  unfold State.quiescePartition
  split
  next opened =>
    split
    · exact law.same (ledger_withPart _ _ _ (by simp [Partition.deficit, Partition.isOpen, opened]))
    · split
      · exact law.refl s
      · refine law.same ((ledger_takeDeferred ..).trans (ledger_withPart _ _ _ ?_))
        simp [Partition.deficit, Partition.isOpen, opened]
  all_goals exact law.refl s

theorem resumePartition (s : State) (p : PNum) : R s (s.resumePartition p).1 := by
  unfold State.resumePartition
  split
  next quiesced => exact law.same (ledger_withPart _ _ _ (by simp [Partition.deficit, Partition.isOpen, quiesced]))
  next quiescing =>
    refine law.same ((ledger_reportDeferred ..).trans (ledger_withPart _ _ _ ?_))
    simp [Partition.deficit, Partition.isOpen, quiescing]
  all_goals exact law.refl s

theorem requestAbort (s : State) (d : AbortDetail) (l : List SNum) : R s (s.requestAbort d l) := by
  induction l generalizing s with
  | nil => exact law.refl s
  | cons i l ih => exact law.after (by simp [State.leaveWaiting]) (ih _)

theorem abortRound (s : State) (d : AbortDetail) (l : List SNum) : R s (s.abortRound d l).1 :=
  law.before (law.requestAbort s d l) (ledger_drawn _)

theorem enterClosing (s : State) (p : PNum) (tag : Tag) (notClosed : (s.part p).st ≠ .closed) :
    R s (s.enterClosing p tag).1 := by
  refine law.after (t := s.withPart p fun y => { y with st := .closing, pendingTag := some tag }) (ledger_withPart _ _ _ ?_)
    (law.trans (law.closeWindows _ p) (law.abortRound ..))
  simp [Partition.deficit, Partition.isOpen, notClosed]

end StepLaw

theorem supersede_blocks (s : State) (i : Fin 8) (d : Deferred) (tag : Tag) (p : PNum) :
    blocks (s.supersede i d tag p) = blocks s := by
  unfold State.supersede
  split <;> simp

theorem ledger_of_blocks {s t : State} (h : blocks t = blocks s) : ledger t = ledger s := by
  simp only [ledger, State.deficits, State.part, card_of_blocks h, windows_of_blocks h, fences_of_blocks h, parts_of_blocks h,
    pool_of_blocks h]

namespace StepLaw
variable {R : State → State → Prop} (law : StepLaw R)
include law

theorem closePartition (s : State) (p : PNum) (tag : Tag) : R s (s.closePartition p tag).1 := by
  have entered {u : State} (h : blocks u = blocks s) (notClosed : (s.part p).st ≠ .closed) : R s (u.enterClosing p tag).1 :=
    law.after (ledger_of_blocks h) (law.enterClosing u p tag (part_of_blocks h p ▸ notClosed))
  unfold State.closePartition
  dsimp only
  split_ifs with closed
  · exact law.refl s
  · exact law.after (ledger_reportDeferred ..) (law.closeWindows ..)
  all_goals
    have notClosed : (s.part p).st ≠ .closed := fun e => closed (.inl e)
    split
    · exact entered (supersede_blocks ..) notClosed
    · split
      · exact law.refl s
      · exact entered (blocks_takeDeferred ..) notClosed

theorem reportCounters (s : State) (p : PNum) (clear : Bool) (a : HostAddr) : R s (s.reportCounters p clear a).1 := by
  unfold State.reportCounters
  dsimp only
  split
  · exact law.refl s
  · refine law.same ((ledger_withPart _ _ _ ?_).trans (ledger_postWrite ..))
    cases clear <;> rfl

theorem setDisposition (s : State) (p : PNum) (c : ErrorClass) (d : Disposition) : R s (s.setDisposition p c d).1 := by
  unfold State.setDisposition
  split
  · exact law.refl s
  · exact law.same (ledger_withPart _ _ _ rfl)

/-! ### The commands of the ring -/

/-- R164: whichever command is executed. -/
theorem runCommand (s : State) (c : Instr) : R s (s.runCommand c) := by
  cases c with
  | partitionOpen tag rsv p sl cl d r l sb cb => exact law.executePart _ _ _ _ _ _ _ fun s p => law.openPartition ..
  | partitionQuiesce tag rsv p => exact law.executePart _ _ _ _ _ _ _ fun s p => law.quiescePartition ..
  | partitionResume tag rsv p => exact law.executePart _ _ _ _ _ _ _ fun s p => law.resumePartition ..
  | partitionClose tag rsv p => exact law.executePart _ _ _ _ _ _ _ fun s p => law.closePartition ..
  | reportCounters tag rsv p c a => exact law.executePart _ _ _ _ _ _ _ fun s p => law.reportCounters ..
  | dispositionSet tag rsv p c d =>
    change R s (s.runDispositionSet ..)
    unfold State.runDispositionSet
    split
    · exact law.executePart _ _ _ _ _ _ _ fun s p => law.setDisposition ..
    · exact law.same (ledger_badParam ..)
  | windowOpen tag rsv w o a b l =>
    change R s (s.runWindowOpen ..)
    unfold State.runWindowOpen
    split
    · exact law.executePart _ _ _ _ _ _ _ fun s p => law.openWindow ..
    · exact law.same (ledger_badParam ..)
  | windowLock tag rsv w => exact law.executeWindow _ _ _ _ _ _ fun s w => law.lockWindow ..
  | windowClose tag rsv w => exact law.executeWindow _ _ _ _ _ _ fun s w => law.closeWindow ..
  | fenceSet tag rsv f b l => exact law.executeFence _ _ _ _ _ _ fun s f => law.setFence ..
  | fenceClear tag rsv f => exact law.executeFence _ _ _ _ _ _ fun s f => law.clearFence ..
  | fenceLock tag rsv => exact law.execute s 0x1A tag (!rsv) State.readNone State.lockFences law.lockFences
  | poolSet tag rsv p r l => exact law.executePart _ _ _ _ _ _ _ fun s p => law.setPool ..
  | poolWatermark tag rsv w =>
    exact law.execute s 0x21 tag _ State.readNone (fun s => s.setWatermark w.toNat) fun s =>
      law.same (by simp [State.setWatermark, State.accept])
  | vectorSet tag rsv v e n h a d =>
    change R s (s.runVectorSet ..)
    unfold State.runVectorSet
    split
    · exact law.same (ledger_badParam ..)
    · exact law.execute _ _ _ _ _ _ fun s => law.same (ledger_withVector ..)
  | eventRingSet tag rsv n b =>
    exact law.execute s 0x30 tag _ State.readNone (fun s => (s.setEventRing n.toNat b).accept []) fun s =>
      law.same (ledger_setEventRing ..)
  | linkSet tag rsv t =>
    exact law.execute s 0x38 tag _ State.readNone (fun s => s.setTimeout t.toNat) fun s =>
      law.same (ledger_withLink ..)
  | unknownOpcode op tag => exact law.same (by simp [State.runCommand, State.runUnknownOpcode])
  | _ => exact law.refl s

theorem takeCommand (s : State) (run : State → State) (kept : ∀ s, R s (run s)) : R s (s.takeCommand run) := by
  unfold State.takeCommand
  split
  · exact kept s
  · exact law.same (ledger_discardCommandRead s)

/-- R164: the row of an administrative command. -/
theorem returnCommand {s t : State} {run : State → State} (kept : ∀ s, R s (run s)) (h : s.returnCommand run = .next t) : R s t := by
  unfold State.returnCommand at h
  split at h
  · obtain rfl := Host.Outcome.next.inj h
    exact law.refl s
  · obtain rfl := Host.Outcome.next.inj h
    exact law.after (ledger_withTag ..) (law.takeCommand _ _ kept)

/-! ### The rows of the table -/

theorem deliver (s : State) (q : ReadRequest) (bytes : List Byte) : R s (s.deliver q bytes) := by
  unfold State.deliver
  split
  · exact law.same (ledger_endStop s)
  · exact law.takeCommand _ _ fun s => law.runCommand s _
  · exact law.atSlot _ _ _ _ (ledger_copyInReturn ..)
  · split
    · exact law.same (ledger_endStop s)
    · exact law.atSlot _ _ _ _ (ledger_recordReturn ..)

theorem deliverFailure (s : State) (q : ReadRequest) (f : ReadFailure) : R s (s.deliverFailure q f) := by
  unfold State.deliverFailure
  split
  · exact law.same (ledger_endStop s)
  · exact law.same (ledger_commandFailure s)
  · exact law.atSlot _ _ _ _ (ledger_copyInFailure ..)
  · split
    · exact law.same (ledger_endStop s)
    · exact law.atSlot _ _ _ _ (ledger_recordFailure ..)

theorem tryFunctionReset (s : State) : R s s.tryFunctionReset := by
  unfold State.tryFunctionReset
  split
  · exact law.refl s
  · exact law.functionReset s

theorem closeAllWindows (s : State) (l : List PNum) : R s (s.closeAllWindows l) := by
  induction l generalizing s with
  | nil => exact law.refl s
  | cons p l ih => exact law.trans (law.closeWindows s p) (ih _)

end StepLaw

theorem deficit_stopped (y : Partition) : y.stopped.deficit = y.deficit := by
  unfold Partition.stopped
  split <;> simp_all [Partition.deficit, Partition.isOpen]

/-- R52: a stop makes no partition CLOSED at once, and so changes no deficit. -/
theorem ledger_stopped (s : State) :
    ledger { s with parts := mapTab (fun _ (y : Partition) => y.stopped) s.parts } = ledger s := by
  simp [ledger, State.deficits, State.part, deficit_stopped]

namespace StepLaw
variable {R : State → State → Prop} (law : StepLaw R)
include law

theorem beginStop (s : State) : R s s.beginStop.1 :=
  law.after (ledger_stopped ((s.withDevice fun d => { d with st := .stopping }).discardAnswers.withAdmin fun a =>
    { a with deferred := mapTab (fun _ d => d.map Deferred.taken) a.deferred }))
    (law.trans (law.closeAllWindows ..) (law.abortRound ..))

/-- R2, R3: the row of a card access's end, once what the access has done to card memory is accounted for. -/
theorem cardEnd {s t : State} {n id : Nat} {o : CardOp} {act : State → SNum → Nat → Inner} (done : R s t)
    (kept : ∀ u i k, ledger (act u i k).1 = ledger u) : R s (((t.endAccess id).endAtSlot n o act).endStop) :=
  law.before (law.trans done (law.trans (law.endAccess t id) (law.endAtSlot n _ o act (kept _)))) (ledger_endStop _)

end StepLaw

/-- The administrative commands, and the opcodes that name none: the rows that a command read returns with. -/
def ringCommand : Instr → Bool
  | .partitionOpen .. | .partitionQuiesce .. | .partitionResume .. | .partitionClose .. | .reportCounters .. | .dispositionSet ..
  | .windowOpen .. | .windowLock .. | .windowClose .. | .fenceSet .. | .fenceClear .. | .fenceLock .. | .poolSet ..
  | .poolWatermark .. | .vectorSet .. | .eventRingSet .. | .linkSet .. | .unknownOpcode .. => true
  | _ => false

/-- R164: each administrative row is the step in which the command read returns with its command. -/
theorem exec_ringCommand {c : Instr} {s : State} (ring : ringCommand c = true) :
    exec c s = s.returnCommand fun s => s.runCommand c := by
  cases c with
  | partitionOpen | partitionQuiesce | partitionResume | partitionClose | reportCounters | dispositionSet | windowOpen | windowLock
  | windowClose | fenceSet | fenceClear | fenceLock | poolSet | poolWatermark | vectorSet | eventRingSet | linkSet
  | unknownOpcode => rfl
  | _ => cases ring

/-- The commands that may come to card memory: the two resets, whose scrub goes on before them, and the ends of the scrub and of
card accesses. -/
def reachesCard : Instr → Bool
  | .powerOnReset _ | .busReset _ | .scrubComplete | .cardReadDataReturn _ | .cardWriteAcknowledge _ _ _ => true
  | _ => false

/-- Every command that does not come to card memory keeps a law that the operations keep. -/
theorem StepLaw.exec {R : State → State → Prop} (law : StepLaw R) {c : Instr} {s t : State} (away : reachesCard c = false)
    (h : exec c s = .next t) : R s t := by
  have next {u : State} (kept : R s u) (h : (.next u : Host.Outcome State Fault Refusal) = .next t) : R s t :=
    Host.Outcome.next.inj h ▸ kept
  cases c with
  | powerOnReset | busReset | scrubComplete | cardReadDataReturn | cardWriteAcknowledge => cases away
  | functionReset | pcieFunctionLevelReset => exact next (law.tryFunctionReset s) h
  | enableAttempt =>
    refine next ?_ h
    split_ifs
    all_goals exact law.same rfl
  | stop =>
    refine next ?_ h
    split
    · split
      · exact law.same (ledger_enterHalted ..)
      · exact law.trans (law.beginStop s) (law.finish ..)
    · exact law.refl s
  | adminSqBaseWrite | adminCqBaseWrite | adminSizesWrite =>
    refine next ?_ h
    unfold State.writeRegister
    split
    all_goals exact law.same rfl
  | registerWriteIgnored => exact next (law.refl s) h
  | statusRead => exact next (law.same (ledger_withDevice ..)) h
  | notifyBadSelector => exact next (law.same (ledger_rejectNotify s)) h
  | notifySqTail => exact next (law.notifyPart _ _ _ (ledger_takeSqTail ..)) h
  | notifyCqHead => exact next (law.notifyPart _ _ _ (ledger_takeCqHead ..)) h
  | notifyAdminSqTail | notifyAdminCqHead | notifyEventRingHead =>
    refine next ?_ h
    split
    all_goals exact law.same (by simp)
  | adminCommandReadIssue =>
    refine next ?_ h
    split
    all_goals exact law.same (by simp)
  | servePartition =>
    refine next ?_ h
    split
    · split
      all_goals exact law.same (by simp)
    · exact law.refl s
  | hostReadRequestIssue =>
    refine next ?_ h
    split
    all_goals exact law.same (by simp)
  | hostReadPartReturn =>
    refine next ?_ h
    split
    · dsimp only
      split
      · exact law.after (ledger_withTag ..) (law.deliver ..)
      · exact law.same (ledger_withTag ..)
    · exact law.refl s
  | hostReadErrorResponse =>
    refine next ?_ h
    split
    · exact law.after (ledger_withTag ..) (law.deliverFailure ..)
    · exact law.refl s
  | hostReadTimeout =>
    refine next ?_ h
    split
    · exact law.after ((ledger_withTag ..).trans (ledger_elapse ..)) (law.deliverFailure ..)
    · exact law.refl s
  | tagQuarantineExpiry =>
    refine next ?_ h
    split
    all_goals exact law.same (by simp)
  | cardReadEccError =>
    change (match s.cardRead _ with | none => _ | some o => _) = _ at h
    split at h
    · exact next (law.refl s) h
    · exact next (law.cardEnd (law.refl s) fun u i k => ledger_takeEccError ..) h
  | postedWriteIssue =>
    refine next ?_ h
    split
    · exact law.finish_of (ledger_issueFirst ..) ..
    · exact law.refl s
  | errorPathStep =>
    refine next ?_ h
    split
    · split
      · exact law.same (ledger_enterHalted ..)
      · exact law.finish_of (ledger_errorPath ..) ..
    · exact law.refl s
  | holdoffExpiry =>
    refine next ?_ h
    split
    all_goals exact law.same (by simp)
  | _ => exact law.returnCommand (fun s => law.runCommand s _) ((exec_ringCommand rfl).symm.trans h)

end Sys2Proof.Machine.Proofs
end

section
/-! What a command leaves of card memory, of LOCKED windows, of a locked fence list, and of the isolation of windows (R8, R13, R29):
the laws that follow from what the inner events leave. -/

namespace Sys2Proof.Machine.Proofs

open Laws

/-! ### Card memory -/

/-- Card memory and its marks are as they were. -/
def SameMemory (s t : State) : Prop := t.card.mem = s.card.mem ∧ t.card.marks = s.card.marks

theorem SameMemory.of_steady {s t : State} (h : Steady s t) : SameMemory s t := ⟨h.mem, h.marks⟩

theorem SameMemory.of_card {s t : State} (h : t.card = s.card) : SameMemory s t := ⟨by rw [h], by rw [h]⟩

theorem SameMemory.trans {s t u : State} : SameMemory s t → SameMemory t u → SameMemory s u
  | ⟨mem, marks⟩, ⟨mem', marks'⟩ => ⟨mem'.trans mem, marks'.trans marks⟩

/-! ### The effects of the administrative commands -/

section Effects
variable (s : State)

theorem openPartition_card (p : PNum) (a b c d e : Nat) (x y : HostAddr) : (s.openPartition p a b c d e x y).1.card = s.card := by
  unfold State.openPartition
  split_ifs <;> rfl

theorem setPool_card (p : PNum) (a b : Nat) : (s.setPool p a b).1.card = s.card := by
  unfold State.setPool
  dsimp only
  split_ifs <;> rfl

theorem openWindow_card (w : WNum) (p : PNum) (b l : Nat) (a : Access) : (s.openWindow w p b l a).1.card = s.card := by
  unfold State.openWindow
  split_ifs
  all_goals (try split) <;> rfl

theorem lockWindow_card (w : WNum) : (s.lockWindow w).1.card = s.card := by
  unfold State.lockWindow
  split_ifs <;> rfl

theorem closeWindow_card (w : WNum) (tag : Tag) : (s.closeWindow w tag).1.card = s.card := by
  unfold State.closeWindow
  split
  case h_4 =>
    split_ifs
    · rfl
    · split <;> rfl
  all_goals rfl

theorem setFence_card (f : FNum) (b l : Nat) (tag : Tag) : (s.setFence f b l tag).1.card = s.card := by
  unfold State.setFence
  split_ifs
  case neg => split <;> rfl
  all_goals rfl

theorem clearFence_card (f : FNum) : (s.clearFence f).1.card = s.card := by
  unfold State.clearFence
  split_ifs <;> rfl

end Effects

/-- Only the ends of card accesses and of the scrub come to card memory. -/
theorem sameMemory_law : StepLaw SameMemory where
  trans := SameMemory.trans
  same h := ⟨congrArg (fun x => x.1) h, congrArg (fun x => x.2.1) h⟩
  work s w := .of_steady (steady_doWork s w)
  endRecord s id := .of_steady (steady_endRecord s id)
  functionReset _ := ⟨rfl, rfl⟩
  closeWindows _ _ := ⟨rfl, rfl⟩
  openPartition _ _ _ _ _ _ _ _ _ := .of_card (openPartition_card ..)
  setPool _ _ _ _ := .of_card (setPool_card ..)
  openWindow _ _ _ _ _ _ := .of_card (openWindow_card ..)
  lockWindow _ _ := .of_card (lockWindow_card ..)
  closeWindow _ _ _ := .of_card (closeWindow_card ..)
  setFence _ _ _ _ _ := .of_card (setFence_card ..)
  clearFence _ _ := .of_card (clearFence_card ..)
  lockFences _ := ⟨rfl, rfl⟩

/-- Settles O59: a power-on or bus reset outside a scrub finds no word to write; every other command named keeps card memory
because the operations it is made of do. -/
theorem onlyCardCommandsWrite : Obligations.OnlyCardCommandsWrite := by
  intro c s t notScrub notRead notWrite idle h
  cases c with
  | powerOnReset | busReset =>
    obtain rfl := Host.Outcome.next.inj h
    rw [scrubOn_none (idle rfl)]
    exact ⟨rfl, rfl⟩
  | scrubComplete => exact absurd rfl notScrub
  | cardReadDataReturn n => exact absurd rfl (notRead n)
  | cardWriteAcknowledge n a b => exact absurd rfl (notWrite n a b)
  | _ => exact sameMemory_law.exec rfl h

/-! ### The form of card memory -/

/-- The commands that come to card memory keep its form as the Card Memory Controller does. -/
theorem exec_keeps_form {c : Instr} {s t : State} (form : MemoryInForm s) (h : exec c s = .next t) : MemoryInForm t := by
  have of_same {u v : State} (form : MemoryInForm u) (same : SameMemory u v) : MemoryInForm v := by
    rw [MemoryInForm, same.1]
    exact form
  cases c with
  | powerOnReset | busReset =>
    obtain rfl := Host.Outcome.next.inj h
    exact wf_scrubOn form
  | scrubComplete =>
    obtain rfl := Host.Outcome.next.inj h
    split
    · exact wf_scrubEnd form
    · exact form
  | cardReadDataReturn id =>
    change (match s.cardRead id with | none => _ | some o => _) = _ at h
    split at h
    · exact Host.Outcome.next.inj h ▸ form
    next o _ =>
      split at h
      · cases h
      · obtain rfl := Host.Outcome.next.inj h
        refine of_same (wf_readTaken form o) (sameMemory_law.cardEnd (sameMemory_law.refl _) fun u i k => ?_)
        split <;> simp
  | cardWriteAcknowledge id a b =>
    change (match s.cardWrite id with | none => _ | some o => _) = _ at h
    split at h
    · exact Host.Outcome.next.inj h ▸ form
    next o _ =>
      split at h
      · cases h
      · obtain rfl := Host.Outcome.next.inj h
        exact of_same (wf_writeReached form o a b) (sameMemory_law.cardEnd (sameMemory_law.refl _) fun u i k => ledger_endChunk ..)
  | _ => exact of_same form (sameMemory_law.exec rfl h)

/-- A step is the time step or the front command on the queue's rest. -/
theorem step_cases {s t : State} (h : step s = .next t) :
    t = s.tick ∨ ∃ c rest, exec c (s.withPending rest) = .next t := by
  unfold step at h
  split at h
  · exact .inl (Host.Outcome.next.inj h).symm
  · exact .inr ⟨_, _, h⟩

theorem ledger_tick (s : State) : ledger s.tick = ledger s := by
  unfold State.tick State.endInit
  split <;> simp

/-- Settles O56: the time step leaves card memory, and every command keeps its form. -/
theorem memoryFormKept : Obligations.MemoryFormKept := by
  intro s t form h
  rcases step_cases h with rfl | ⟨c, rest, h⟩
  · rw [MemoryInForm, (sameMemory_law.same (ledger_tick s)).1]
    exact form
  · exact exec_keeps_form (s := s.withPending rest) form h

end Sys2Proof.Machine.Proofs
end

section
/-! The window table and the fence list under every command: a LOCKED window and a locked list stay (R13, R29), and no command lets
windows of two partitions share a byte that one of them may write (R8). -/

namespace Sys2Proof.Machine.Proofs

open Laws

/-! ### Locks -/

/-- R13, R29: what outlasts a command, as the statement has it: LOCKED windows with their records, and a locked fence list with the
ranges of its entries. -/
def LocksKept (s t : State) : Prop :=
  (∀ w, (s.window w).st = .locked → (t.window w).st = .locked ∧ (t.window w).owner = (s.window w).owner
    ∧ (t.window w).cardBase = (s.window w).cardBase ∧ (t.window w).length = (s.window w).length
    ∧ (t.window w).access = (s.window w).access)
  ∧ (s.fences.locked = true → t.fences.locked = true
      ∧ ∀ f, (t.fence f).cardBase = (s.fence f).cardBase ∧ (t.fence f).length = (s.fence f).length
        ∧ ((t.fence f).st = .empty ↔ (s.fence f).st = .empty) ∧ ((s.fence f).st = .active → (t.fence f).st = .active))

/-- R8: isolation is not lost. -/
def IsolationHeld (s t : State) : Prop := Isolated s → Isolated t

/-- Windows that keep what an inner event keeps are locked and isolated as before. -/
theorem isolationHeld_of_windows {s t : State}
    (h : ∀ w, (t.window w).st ≠ .free → (s.window w).st ≠ .free ∧ (t.window w).owner = (s.window w).owner
      ∧ (t.window w).cardBase = (s.window w).cardBase ∧ (t.window w).length = (s.window w).length
      ∧ (t.window w).access = (s.window w).access) : IsolationHeld s t := by
  intro isolated v w a hv hw owners writes covers
  obtain ⟨usedV, ownerV, baseV, lengthV, accessV⟩ := h v hv
  obtain ⟨usedW, ownerW, baseW, lengthW, -⟩ := h w hw
  rw [ownerV, ownerW] at owners
  rw [accessV] at writes
  rw [Window.covers, baseV, lengthV] at covers
  rw [Window.covers, baseW, lengthW]
  exact isolated v w a usedV usedW owners writes covers

theorem isolationHeld_of_kept {s t : State} (h : ∀ w, WindowKept (s.window w) (t.window w)) : IsolationHeld s t :=
  isolationHeld_of_windows fun w => (h w).record

theorem locksKept_of_kept {s t : State} (windows : ∀ w, WindowKept (s.window w) (t.window w))
    (locked : s.fences.locked = true → t.fences.locked = true)
    (fences : s.fences.locked = true → ∀ f, FenceKept (s.fence f) (t.fence f)) : LocksKept s t := by
  refine ⟨fun w lockedWindow => ?_, fun lockedList => ⟨locked lockedList, fun f => ?_⟩⟩
  · have stays := (windows w).locked lockedWindow
    obtain ⟨-, owner, base, length, access⟩ := (windows w).record (by simp [stays])
    exact ⟨stays, owner, base, length, access⟩
  · obtain ⟨empty, active, base, length⟩ := fences lockedList f
    exact ⟨base, length, empty, active⟩

/-- Both laws, each of which the windows and fences alone decide. -/
def Guarded (s t : State) : Prop := LocksKept s t ∧ IsolationHeld s t

theorem LocksKept.trans {s t u : State} (h : LocksKept s t) (k : LocksKept t u) : LocksKept s u := by
  obtain ⟨windows, fences⟩ := h
  obtain ⟨windows', fences'⟩ := k
  refine ⟨fun w locked => ?_, fun locked => ?_⟩
  · obtain ⟨stays, owner, base, length, access⟩ := windows w locked
    obtain ⟨stays', owner', base', length', access'⟩ := windows' w stays
    exact ⟨stays', owner'.trans owner, base'.trans base, length'.trans length, access'.trans access⟩
  · obtain ⟨stays, entries⟩ := fences locked
    obtain ⟨stays', entries'⟩ := fences' stays
    refine ⟨stays', fun f => ?_⟩
    obtain ⟨base, length, empty, active⟩ := entries f
    obtain ⟨base', length', empty', active'⟩ := entries' f
    exact ⟨base'.trans base, length'.trans length, empty'.trans empty, active' ∘ active⟩

theorem guarded_of_windows {s t : State} (windows : ∀ w, WindowKept (s.window w) (t.window w)) (fences : t.fences = s.fences) :
    Guarded s t := by
  refine ⟨locksKept_of_kept windows (fun h => fences ▸ h) fun _ f => ?_, isolationHeld_of_kept windows⟩
  rw [State.fence, State.fence, fences]
  exact .refl _

theorem guarded_of_fences {s t : State} (windows : t.windows = s.windows) (locked : s.fences.locked = true → t.fences.locked = true)
    (fences : s.fences.locked = true → ∀ f, FenceKept (s.fence f) (t.fence f)) : Guarded s t := by
  have same (w : WNum) : WindowKept (s.window w) (t.window w) := by
    rw [State.window, State.window, windows]
    exact .refl _
  exact ⟨locksKept_of_kept same locked fences, isolationHeld_of_kept same⟩

theorem guarded_of_same {s t : State} (windows : t.windows = s.windows) (fences : t.fences = s.fences) : Guarded s t :=
  guarded_of_windows (fun w => by rw [State.window, State.window, windows]; exact .refl _) fences

theorem guarded_of_steady {s t : State} (h : Steady s t) : Guarded s t :=
  ⟨locksKept_of_kept h.windows (fun locked => h.locked.trans locked) fun _ => h.fences, isolationHeld_of_kept h.windows⟩

/-! ### The window commands -/

section Effects
variable (s : State)

theorem guarded_openPartition (p : PNum) (a b c d e : Nat) (x y : HostAddr) : Guarded s (s.openPartition p a b c d e x y).1 := by
  unfold State.openPartition
  split_ifs
  all_goals exact guarded_of_same rfl rfl

theorem guarded_setPool (p : PNum) (a b : Nat) : Guarded s (s.setPool p a b).1 := by
  unfold State.setPool
  dsimp only
  split_ifs
  all_goals exact guarded_of_same rfl rfl

theorem guarded_lockWindow (w : WNum) : Guarded s (s.lockWindow w).1 := by
  unfold State.lockWindow
  split
  next opened =>
    have kept : WindowKept (s.window w) { s.window w with st := .locked } :=
      ⟨fun _ => rfl, fun _ => ⟨by simp [opened], rfl, rfl, rfl, rfl⟩, rfl⟩
    exact guarded_of_steady (steady_withWindow s w _ kept)
  next => exact guarded_of_same rfl rfl

theorem guarded_closeWindow (w : WNum) (tag : Tag) : Guarded s (s.closeWindow w tag).1 := by
  unfold State.closeWindow
  split
  case h_4 opened =>
    have notLocked : (s.window w).st ≠ .locked := by simp [opened]
    split
    · exact guarded_of_steady (steady_withWindow s w _ (.ofFreed notLocked))
    · split
      · exact guarded_of_same rfl rfl
      · have kept : WindowKept (s.window w) { s.window w with st := .retiring, closeTag := some tag } :=
          ⟨fun locked => absurd locked notLocked, fun _ => ⟨by simp [opened], rfl, rfl, rfl, rfl⟩, rfl⟩
        exact guarded_of_steady ((steady_withWindow s w _ kept).trans (.of_outer (outer_takeDeferred ..)))
  all_goals exact guarded_of_same rfl rfl

theorem access_writes_iff (a : Access) : a.writes = true ↔ a ≠ .read := by
  cases a <;> simp [Access.writes]

/-- R8: the test that WINDOW_OPEN makes finds every window that the new one would share a written byte with. -/
theorem conflict_none {p : PNum} {base length : Nat} {a : Access} (h : s.conflict p base length a = none) (v : WNum)
    (used : (s.window v).st ≠ .free) (owner : (s.window v).owner ≠ some p)
    (writes : (s.window v).access.writes = true ∨ a.writes = true) (x : Nat) (covered : (s.window v).covers x) :
    ¬(base ≤ x ∧ x < base + length) := by
  obtain ⟨lo, hi⟩ := covered
  rintro ⟨lo', hi'⟩
  have free := lowest_none.mp h v
  have meets : overlaps (s.window v).cardBase (s.window v).length base length = true := by
    simp only [overlaps, Bool.and_eq_true, decide_eq_true_eq]
    omega
  have permits : ((s.window v).access.writes || a.writes) = true := Bool.or_eq_true_iff.mpr writes
  simp [Window.conflicts, Window.inUse, used, owner, meets, permits] at free

/-- R7, R8, R9: an accepted WINDOW_OPEN fills a FREE entry, with a range that shares no written byte with another owner's. -/
theorem guarded_openWindow (w : WNum) (p : PNum) (base length : Nat) (a : Access) : Guarded s (s.openWindow w p base length a).1 := by
  unfold State.openWindow
  split_ifs with used ready full
  · exact guarded_of_same rfl rfl
  · exact guarded_of_same rfl rfl
  · exact guarded_of_same rfl rfl
  rw [not_not] at used
  split
  · exact guarded_of_same rfl rfl
  next none =>
    refine ⟨⟨fun v locked => ?_, fun locked => ⟨locked, fun f => ⟨rfl, rfl, .rfl, id⟩⟩⟩, fun isolated => ?_⟩
    · have other : v ≠ w := by
        rintro rfl
        simp [used] at locked
      rw [State.accept, withWindow_window_ne _ _ _ _ other]
      exact ⟨locked, rfl, rfl, rfl, rfl⟩
    · intro v u x hv hu owners writes covers
      simp only [State.accept, withWindow_window] at hv hu owners writes covers ⊢
      by_cases hvw : v = w
      · by_cases huw : u = w
        · simp [hvw, huw] at owners
        · rw [if_pos hvw] at writes covers
          rw [if_neg huw] at hu ⊢
          rw [if_pos hvw, if_neg huw] at owners
          exact fun covered => conflict_none s none u hu owners.symm (.inr writes) x covered covers
      · rw [if_neg hvw] at hv writes covers
        by_cases huw : u = w
        · rw [if_neg hvw, if_pos huw] at owners
          rw [if_pos huw]
          exact conflict_none s none v hv owners (.inl writes) x covers
        · rw [if_neg hvw, if_neg huw] at owners
          rw [if_neg huw] at hu ⊢
          exact isolated v u x hv hu owners writes covers

/-! ### The fence commands -/

theorem guarded_setFence (f : FNum) (base length : Nat) (tag : Tag) : Guarded s (s.setFence f base length tag).1 := by
  unfold State.setFence
  by_cases locked : s.fences.locked = true
  · rw [if_pos locked]
    exact guarded_of_same rfl rfl
  · rw [if_neg locked]
    split_ifs
    · exact guarded_of_same rfl rfl
    · exact guarded_of_fences rfl (absurd · locked) (absurd · locked)
    · split
      · exact guarded_of_same rfl rfl
      · exact guarded_of_fences rfl (absurd · locked) (absurd · locked)

theorem guarded_clearFence (f : FNum) : Guarded s (s.clearFence f).1 := by
  unfold State.clearFence
  by_cases locked : s.fences.locked = true
  · rw [if_pos locked]
    exact guarded_of_same rfl rfl
  · rw [if_neg locked]
    split_ifs
    · exact guarded_of_fences rfl (absurd · locked) (absurd · locked)
    · exact guarded_of_same rfl rfl

/-! ### The function reset -/

/-- R19, R31: a function reset keeps LOCKED windows and a locked list, and frees every other window. -/
theorem guarded_functionReset : Guarded s s.functionReset := by
  refine ⟨⟨fun w locked => ?_, fun locked => ⟨locked, fun f => ?_⟩⟩, isolationHeld_of_windows fun w used => ?_⟩
  · rw [functionReset_window, Window.functionReset, if_pos locked]
    exact ⟨locked, rfl, rfl, rfl, rfl⟩
  · rw [functionReset_fence, Fence.functionReset, if_pos locked]
    exact ⟨rfl, rfl, .rfl, id⟩
  · rw [functionReset_window, Window.functionReset] at used ⊢
    split at used
    next locked =>
      rw [if_pos locked]
      exact ⟨used, rfl, rfl, rfl, rfl⟩
    next => exact absurd rfl used

end Effects

theorem guarded_law : StepLaw Guarded where
  trans h k := ⟨h.1.trans k.1, k.2 ∘ h.2⟩
  same h := guarded_of_same (congrArg (fun x => x.2.2.1) h) (congrArg (fun x => x.2.2.2.1) h)
  work s w := guarded_of_steady (steady_doWork s w)
  endRecord s id := guarded_of_steady (steady_endRecord s id)
  functionReset := guarded_functionReset
  closeWindows s p := guarded_of_steady (steady_closeWindows s p)
  openPartition := guarded_openPartition
  setPool := guarded_setPool
  openWindow := guarded_openWindow
  lockWindow := guarded_lockWindow
  closeWindow := guarded_closeWindow
  setFence := guarded_setFence
  clearFence := guarded_clearFence
  lockFences _ := guarded_of_fences rfl (fun _ => rfl) fun _ _ => .refl _

/-! ### The commands that come to card memory -/

theorem scrubOn_windows (s : State) : s.scrubOn.windows = s.windows := by
  unfold State.scrubOn
  split <;> rfl

theorem scrubOn_fences (s : State) : s.scrubOn.fences = s.fences := by
  unfold State.scrubOn
  split <;> rfl

theorem guarded_readTaken (s : State) (o : CardOp) : Guarded s (s.readTaken o) :=
  guarded_of_same (scrubOn_windows s) (scrubOn_fences s)

theorem guarded_writeReached (s : State) (o : CardOp) (a b : Bool) : Guarded s (s.writeReached o a b) :=
  guarded_of_same (scrubOn_windows s) (scrubOn_fences s)

/-- R13, R29, R8: every command but the two resets that rewrite the tables. -/
theorem guarded_exec {c : Instr} {s t : State} (kept : powerOnOrBus c = false) (h : exec c s = .next t) : Guarded s t := by
  cases c with
  | powerOnReset | busReset => cases kept
  | scrubComplete =>
    obtain rfl := Host.Outcome.next.inj h
    split
    all_goals exact guarded_of_same rfl rfl
  | cardReadDataReturn id =>
    change (match s.cardRead id with | none => _ | some o => _) = _ at h
    split at h
    · exact Host.Outcome.next.inj h ▸ guarded_law.refl s
    next o _ =>
      split at h
      · cases h
      · obtain rfl := Host.Outcome.next.inj h
        refine guarded_law.cardEnd (guarded_readTaken s o) fun u i k => ?_
        split <;> simp
  | cardWriteAcknowledge id a b =>
    change (match s.cardWrite id with | none => _ | some o => _) = _ at h
    split at h
    · exact Host.Outcome.next.inj h ▸ guarded_law.refl s
    next o _ =>
      split at h
      · cases h
      · obtain rfl := Host.Outcome.next.inj h
        exact guarded_law.cardEnd (guarded_writeReached s o a b) fun u i k => ledger_endChunk ..
  | _ => exact guarded_law.exec rfl h

/-- Settles O58: LOCKED windows and a locked list outlast the operations of which every other command is made. -/
theorem locksOutlastCommands : Obligations.LocksOutlastCommands := fun _ _ _ kept h => (guarded_exec kept h).1

/-- Settles O55: the time step and the two resets that free every window hold isolation, and every other command holds it because
only an accepted WINDOW_OPEN fills an entry, after the test of R8. -/
theorem isolationKept : Obligations.IsolationKept := by
  intro s t isolated h
  have freed (u : State) (k : BitVec 2) : Isolated (u.powerUp k) := fun v _ _ used =>
    absurd (congrArg Window.st (look_replicate Window.free v)) used
  rcases step_cases h with rfl | ⟨c, rest, h⟩
  · exact (guarded_law.same (ledger_tick s)).2 isolated
  · cases c with
    | powerOnReset k =>
      obtain rfl := Host.Outcome.next.inj h
      exact freed (s.withPending rest).scrubOn k
    | busReset k =>
      obtain rfl := Host.Outcome.next.inj h
      exact freed (s.withPending rest).scrubOn k
    | _ => exact (guarded_exec rfl h).2 isolated

end Sys2Proof.Machine.Proofs
end

section
/-! The free buffers and the reserves (R104, R105, R106): every grant leaves enough buffers for what the partitions are short of
their reserves. -/

namespace Sys2Proof.Machine.Proofs

open Laws

/-- The pool's account: the sum of the deficits and the count of free buffers. -/
def purse (s : State) : Nat × Nat := (s.deficits, s.pool.free)

theorem purse_of_ledger {s t : State} (h : ledger t = ledger s) : purse t = purse s := congrArg (fun x => x.2.2.2.2) h

theorem deficit_eq (y : Partition) : y.deficit = if y.st = .closed then 0 else y.reserve - y.held := by
  unfold Partition.deficit Partition.isOpen
  by_cases closed : y.st = .closed <;> simp [closed]

theorem poolCovered_iff {s : State} : PoolCovered s ↔ s.deficits ≤ s.pool.free := by
  simp only [PoolCovered, State.deficits, deficit_eq]

/-- R105: the cover is not lost. -/
def CoverHeld (s t : State) : Prop := PoolCovered s → PoolCovered t

theorem coverHeld_of_purse {s t : State} (h : purse t = purse s) : CoverHeld s t := by
  intro covered
  simp only [purse, Prod.mk.injEq] at h
  obtain ⟨deficits, free⟩ := h
  rw [poolCovered_iff] at covered ⊢
  rwa [deficits, free]

/-! ### Sums over the partitions -/

theorem sum_map_update {α : Type} [DecidableEq α] {f g : α → Nat} {l : List α} {a : α} (nodup : l.Nodup)
    (other : ∀ b ∈ l, b ≠ a → g b = f b) : (l.map g).sum + (if a ∈ l then f a else 0) = (l.map f).sum + if a ∈ l then g a else 0 := by
  induction l with
  | nil => rfl
  | cons b l ih =>
    obtain ⟨notIn, nodup⟩ := List.nodup_cons.mp nodup
    have rest := ih nodup fun c hc => other c (List.mem_cons_of_mem _ hc)
    by_cases same : b = a
    · subst same
      simp only [List.map_cons, List.sum_cons, List.mem_cons_self, if_true, if_neg notIn] at rest ⊢
      omega
    · have here := other b (List.mem_cons_self ..) same
      simp only [List.map_cons, List.sum_cons, List.mem_cons, Ne.symm same, false_or]
      omega

/-- A sum over all numbers changes with one of them by what that one changes. -/
theorem total_update {n : Nat} {f g : Fin n → Nat} (i : Fin n) (other : ∀ j, j ≠ i → g j = f j) :
    total g + f i = total f + g i := by
  have := sum_map_update (a := i) (List.nodup_finRange n) fun j _ => other j
  simpa [total] using this

theorem le_total {n : Nat} (f : Fin n → Nat) (i : Fin n) : f i ≤ total f :=
  List.le_sum_of_mem (List.mem_map_of_mem (List.mem_finRange i))

/-- The sum of the deficits follows the entry that an update changes. -/
theorem deficits_update (s : State) (p : PNum) (f : Partition → Partition) :
    (s.withPart p f).deficits + (s.part p).deficit = s.deficits + (f (s.part p)).deficit := by
  have := total_update (f := fun q => (s.part q).deficit) (g := fun q => ((s.withPart p f).part q).deficit) p
    fun q other => by rw [withPart_part_ne _ _ _ _ other]
  simpa [State.deficits] using this

theorem deficit_le_deficits (s : State) (p : PNum) : (s.part p).deficit ≤ s.deficits := le_total (fun q => (s.part q).deficit) p

/-! ### Buffers -/

section Pool
variable (s : State)

@[simp] theorem purse_withPart (p : PNum) (f : Partition → Partition) (kept : (f (s.part p)).deficit = (s.part p).deficit) :
    purse (s.withPart p f) = purse s := purse_of_ledger (ledger_withPart s p f kept)

theorem deficits_withPool (f : Pool → Pool) : (s.withPool f).deficits = s.deficits := (rfl)
theorem deficits_withBuffer (b : BNum) (f : Buffer → Buffer) : (s.withBuffer b f).deficits = s.deficits := (rfl)

/-- R106: a grant to a partition that may take a buffer leaves the deficits covered: it lowers the partition's own, or a buffer is
free beyond them all. -/
theorem coverHeld_grantBuffer {p : PNum} (may : s.eligibleForBuffer p = true) (b : BNum) (i : SNum) :
    CoverHeld s (s.grantBuffer b i p) := by
  intro covered
  obtain ⟨notClosed, within⟩ := (eligibleForBuffer_iff s p).mp may
  have account := deficits_update ((s.withBuffer b fun x => { x with owner := some i }).withPool fun q => { q with free := q.free - 1 })
    p fun x => { x with held := x.held + 1 }
  simp only [deficits_withPool, deficits_withBuffer, withPool_part, withBuffer_part, deficit_eq, if_neg notClosed] at account
  have own := deficit_le_deficits s p
  rw [deficit_eq, if_neg notClosed] at own
  have shared : s.sharedFree = s.pool.free - s.deficits := rfl
  rw [poolCovered_iff] at covered ⊢
  change (State.withPart _ p _).deficits ≤ s.pool.free - 1
  omega

/-- R103: a buffer given back raises the count of free buffers by as much as it may raise the deficits. -/
theorem coverHeld_freeUp (b : BNum) (p : PNum) : CoverHeld s (s.freeUp b p) := by
  intro covered
  have account := deficits_update ((s.withBuffer b fun x => { x with owner := none }).withPool fun q => { q with free := q.free + 1 })
    p fun x => { x with held := x.held - 1 }
  simp only [deficits_withPool, deficits_withBuffer, withPool_part, withBuffer_part, deficit_eq] at account
  rw [poolCovered_iff] at covered ⊢
  change (State.withPart _ p _).deficits ≤ s.pool.free + 1
  split at account <;> omega

theorem arbiterPick_eligible {p : PNum} {i : SNum} (h : s.arbiterPick = some (p, i)) : s.eligibleForBuffer p = true := by
  obtain ⟨q, -, found⟩ := List.exists_of_findSome?_eq_some h
  split at found
  · split at found
    next may =>
      obtain ⟨rfl, -⟩ := Prod.mk.inj (Option.some.inj found)
      exact may
    next => cases found
  · cases found

theorem coverHeld_arbiterGrant {p : PNum} {i : SNum} (pick : s.arbiterPick = some (p, i)) (b : BNum) :
    CoverHeld s (s.arbiterGrant b p i) := by
  intro covered
  exact coverHeld_grantBuffer ((s.leaveWaiting i).withPool fun q => { q with pointer := p }) (arbiterPick_eligible s pick) b i covered

theorem coverHeld_releaseBuffer (b : BNum) (p : PNum) : CoverHeld s (s.releaseBuffer b p).1 := by
  intro covered
  have back := coverHeld_freeUp s b p covered
  unfold State.releaseBuffer
  dsimp only
  split
  next pick => exact coverHeld_arbiterGrant _ pick b back
  next => exact back

theorem coverHeld_arbiterPass (n : Nat) : CoverHeld s (State.arbiterPass n s).1 := by
  induction n generalizing s with
  | zero => exact id
  | succ n ih =>
    unfold State.arbiterPass
    split
    next pick _ => exact fun covered => ih _ (coverHeld_arbiterGrant s pick _ covered)
    next => exact id

/-! ### The inner events -/

@[simp] theorem purse_withSlot (i : SNum) (f : Slot → Slot) : purse (s.withSlot i f) = purse s := (rfl)
@[simp] theorem purse_withBuffer (b : BNum) (f : Buffer → Buffer) : purse (s.withBuffer b f) = purse s := (rfl)
@[simp] theorem purse_withAssembling (p : PNum) (a : Option Assembling) : purse (s.withAssembling p a) = purse s := (rfl)
@[simp] theorem purse_withLink (f : Link → Link) : purse (s.withLink f) = purse s := (rfl)
@[simp] theorem purse_withWindow (w : WNum) (f : Window → Window) : purse (s.withWindow w f) = purse s := (rfl)
@[simp] theorem purse_withFence (f : FNum) (g : Fence → Fence) : purse (s.withFence f g) = purse s := (rfl)
@[simp] theorem purse_drawn : purse s.drawn = purse s := (rfl)
@[simp] theorem purse_postWrite (w : PostedWrite) : purse (s.postWrite w) = purse s := (rfl)
@[simp] theorem purse_askRead (r : Requester) (a : HostAddr) (n : Nat) : purse (s.askRead r a n) = purse s := (rfl)
@[simp] theorem purse_withdrawReads (i : SNum) : purse (s.withdrawReads i) = purse s := (rfl)
@[simp] theorem purse_orphanReads (i : SNum) : purse (s.orphanReads i) = purse s := (rfl)
@[simp] theorem purse_leaveWaiting (i : SNum) : purse (s.leaveWaiting i) = purse s := (rfl)

@[simp] theorem purse_reportDeferred (o : DeferOp) (n : Nat) (a : AdminStatus) : purse (s.reportDeferred o n a) = purse s :=
  purse_of_ledger (ledger_reportDeferred ..)

@[simp] theorem purse_handOver (e : Event) : purse (s.handOver e) = purse s := purse_of_ledger (ledger_handOver ..)

@[simp] theorem purse_newRecord (v : VNum) (u : Bool) : purse (s.newRecord v u) = purse s := purse_of_ledger (ledger_newRecord ..)

@[simp] theorem purse_evalWatermark : purse s.evalWatermark = purse s := purse_of_ledger (ledger_evalWatermark s)

@[simp] theorem purse_takeRefs (l : List WNum) : purse (s.takeRefs l) = purse s := by
  induction l generalizing s with
  | nil => rfl
  | cons w l ih => simp [State.takeRefs, ih]

@[simp] theorem purse_dropRefs (l : List WNum) : purse (s.dropRefs l) = purse s := by
  induction l generalizing s with
  | nil => rfl
  | cons w l ih =>
    rw [State.dropRefs, ih]
    unfold State.dropRef
    dsimp only
    split_ifs <;> simp

theorem purse_presentAccess {t : State} {i : SNum} {k base len : Nat} {w : Option (List Byte)}
    (h : s.presentAccess i k base len w = .ok t) : purse t = purse s := by
  unfold State.presentAccess at h
  split at h
  · cases h
  · cases h
    rfl

@[simp] theorem purse_startChunk (i : SNum) (c : MemberCtx) (r : SubRecord) (op : Op) (b : Option BNum) :
    purse (s.startChunk i c r op b).1 = purse s := by
  unfold State.startChunk
  cases op
  case mark => rfl
  case copyIn => simp
  all_goals
    dsimp only
    split
    · rfl
    · split
      · simp
      next issued => simp [purse_presentAccess _ issued]

@[simp] theorem purse_endChunk (i : SNum) (k : Nat) (b : Bool) : purse (s.endChunk i k b).1 = purse s :=
  purse_of_ledger (ledger_endChunk ..)

theorem purse_waitForBuffer (i : SNum) (p : PNum) : purse (s.waitForBuffer i p) = purse s :=
  purse_withPart _ p _ rfl

theorem coverHeld_startChunks (i : SNum) : CoverHeld s (s.startChunks i).1 := by
  unfold State.startChunks
  dsimp only
  split
  · split
    · split
      · split
        next may =>
          split
          · exact fun covered => coverHeld_of_purse (purse_startChunk ..) (coverHeld_grantBuffer s may _ _ covered)
          · exact id
        next =>
          split
          · exact coverHeld_of_purse (purse_waitForBuffer ..)
          · exact id
      · exact coverHeld_of_purse (purse_startChunk ..)
    · exact id
  · exact id

@[simp] theorem purse_takeGrant (i : SNum) (b : BNum) : purse (s.takeGrant i b).1 = purse s := by
  unfold State.takeGrant
  dsimp only
  split
  · split_ifs <;> simp
  · rfl

@[simp] theorem purse_writeChunk (i : SNum) (m : MemberCtx) (c : ChunkCtx) : purse (s.writeChunk i m c).1 = purse s := by
  unfold State.writeChunk
  dsimp only
  split
  · rfl
  · split
    · rfl
    next issued => simp [purse_presentAccess _ issued]

@[simp] theorem purse_takeTurn (i : SNum) : purse (s.takeTurn i).1 = purse s := by
  unfold State.takeTurn
  dsimp only
  split
  next op c _ _ _ _ =>
    by_cases turn : ((s.slot i).live && decide (c.phase = .held)) = true
    · rw [if_pos turn]
      cases op
      case copyOut =>
        dsimp only
        split_ifs <;> simp [State.handOverChunk]
      all_goals simp [State.enterCrc]
    · rw [if_neg turn]
  next => rfl

@[simp] theorem purse_afterEnd (i : SNum) : purse (s.afterEnd i).1 = purse s := by
  unfold State.afterEnd
  dsimp only
  split
  · rfl
  · split_ifs <;> rfl

@[simp] theorem purse_startMember (i : SNum) : purse (s.startMember i).1 = purse s := by
  unfold State.startMember
  dsimp only
  split
  · rfl
  · split_ifs
    · split <;> simp
    · rfl

@[simp] theorem purse_cutMember (i : SNum) : purse (s.cutMember i).1 = purse s := (rfl)

@[simp] theorem purse_failMember (i : SNum) (a : Status) (k : Nat) : purse (s.failMember i a k).1 = purse s := by
  unfold State.failMember
  dsimp only
  split <;> simp

@[simp] theorem purse_endMember (i : SNum) : purse (s.endMember i).1 = purse s := by
  unfold State.endMember
  dsimp only
  split
  · simp
  · simp
  · cases (s.slot i).ctx
    · dsimp only
      split <;> simp
    · dsimp only
      split_ifs <;> simp

theorem deficit_count (y : Partition) (a : Status) (n : Nat) : (y.count a n).unreserve.deficit = y.deficit := by
  unfold Partition.count
  dsimp only
  split <;> rfl

@[simp] theorem purse_postGroup (i : SNum) (v : Verdict) : purse (s.postGroup i v) = purse s := by
  have counted (u : State) (p : PNum) (n : Nat) : purse (u.withPart p fun y => (y.count v.status n).unreserve) = purse u :=
    purse_withPart _ _ _ (deficit_count ..)
  have advanced (u : State) (p : PNum) : purse (u.withPart p Partition.advanceCq) = purse u := purse_withPart _ _ _ rfl
  unfold State.postGroup
  dsimp only
  split <;> simp [counted, advanced]

@[simp] theorem purse_freeSlot (i : SNum) : purse (s.freeSlot i).1 = purse s := by
  have lowered (u : State) (p : PNum) : purse (u.withPart p fun y => { y with slotsHeld := y.slotsHeld - 1 }) = purse u :=
    purse_withPart _ _ _ rfl
  unfold State.freeSlot
  dsimp only
  split_ifs with quiescing closing
  · obtain ⟨-, quiescing⟩ := quiescing
    rw [purse_reportDeferred, purse_withPart, lowered, purse_withSlot]
    simp only [deficit_eq, quiescing]
    rfl
  all_goals rw [lowered, purse_withSlot]

@[simp] theorem purse_tryRelease (i : SNum) : purse (s.tryRelease i).1 = purse s := by
  unfold State.tryRelease
  dsimp only
  split <;> simp

@[simp] theorem purse_returnSlot (i : SNum) : purse (s.returnSlot i).1 = purse s := by
  have released (u : State) (p : PNum) : purse (u.withPart p Partition.unreserve) = purse u := purse_withPart _ _ _ rfl
  simp [State.returnSlot, released]

@[simp] theorem purse_barrierRelease (p : PNum) : purse (s.barrierRelease p).1 = purse s := by
  unfold State.barrierRelease
  dsimp only
  split
  · split <;> simp
  · rfl

/-- R40, R104: a partition that closes takes its deficit out of the sum. -/
theorem coverHeld_endClosing (p : PNum) : CoverHeld s (s.endClosing p).1 := by
  intro covered
  have account := deficits_update s p fun y => { y with st := .closed, pendingTag := none }
  rw [show Partition.deficit { s.part p with st := .closed, pendingTag := none } = 0 from rfl] at account
  rw [poolCovered_iff] at covered ⊢
  change (s.withPart p _).deficits ≤ s.pool.free
  omega

@[simp] theorem purse_answerClose (p : PNum) : purse (s.answerClose p) = purse s := by
  unfold State.answerClose
  dsimp only
  split
  · rfl
  · rw [purse_reportDeferred]
    split <;> split_ifs <;> simp

@[simp] theorem purse_requestAbort (d : AbortDetail) (l : List SNum) : purse (s.requestAbort d l) = purse s := by
  induction l generalizing s with
  | nil => rfl
  | cons i l ih => simp [State.requestAbort, ih]

@[simp] theorem purse_abortRound (d : AbortDetail) (l : List SNum) : purse (s.abortRound d l).1 = purse s := by
  simp [State.abortRound]

@[simp] theorem purse_takeAbort (i : SNum) (d : AbortDetail) : purse (s.takeAbort i d).1 = purse s := by
  unfold State.takeAbort
  dsimp only
  cases (s.slot i).st with
  | assembling =>
    dsimp only
    split_ifs <;> simp
  | _ => simp

@[simp] theorem purse_takeFault (p : PNum) (c : FaultCause) : purse (s.takeFault p c).1 = purse s := by
  unfold State.takeFault
  split
  case h_1 st | h_2 st | h_3 st =>
    rw [purse_abortRound, purse_withPart]
    simp [deficit_eq, st]
  all_goals rfl

@[simp] theorem purse_reportFault (p : PNum) (c : FaultCause) : purse (s.reportFault p c) = purse s :=
  (purse_withPart _ p _ rfl).trans (by simp)

theorem coverHeld_doWork (w : Work) : CoverHeld s (s.doWork w).1 := by
  cases w with
  | startChunks i => exact coverHeld_startChunks s i
  | release b p => exact coverHeld_releaseBuffer s b p
  | pass => exact coverHeld_arbiterPass s 128
  | endClosing p => exact coverHeld_endClosing s p
  | _ => exact coverHeld_of_purse (by simp [State.doWork, State.completionIssued])

/-! ### The other operations -/

theorem purse_countDownFence (f : FNum) : purse (s.countDownFence f) = purse s := by
  unfold State.countDownFence
  dsimp only
  split
  · split
    · split_ifs <;> simp
    · rfl
  · rfl

theorem purse_countDownFences (l : List FNum) : purse (s.countDownFences l) = purse s := by
  induction l generalizing s with
  | nil => rfl
  | cons f l ih => exact (ih _).trans (purse_countDownFence s f)

theorem purse_endRecord (id : Nat) : purse (s.endRecord id) = purse s := by
  unfold State.endRecord
  split
  · rfl
  · exact purse_countDownFences ..

/-- R34, R114: a reserve enters the pool only where shared free holds it. -/
theorem coverHeld_openPartition (p : PNum) (a b c reserve limit : Nat) (x y : HostAddr) :
    CoverHeld s (s.openPartition p a b c reserve limit x y).1 := by
  unfold State.openPartition
  split_ifs with open' short overLimit
  · exact id
  · exact id
  · exact id
  · intro covered
    have account := deficits_update s p fun _ => Partition.opening a b c reserve limit x y
    have entered : (Partition.opening a b c reserve limit x y).deficit = reserve := rfl
    have shared : s.sharedFree = s.pool.free - s.deficits := rfl
    rw [poolCovered_iff] at covered ⊢
    change (s.withPart p _).deficits ≤ s.pool.free
    omega

/-- R115: a share is replaced only where shared free, with what the partition is short of its old reserve, holds the new one. -/
theorem coverHeld_setPool (p : PNum) (reserve limit : Nat) : CoverHeld s (s.setPool p reserve limit).1 := by
  unfold State.setPool
  dsimp only
  split_ifs with state short overLimit
  · exact id
  · exact id
  · exact id
  all_goals
    intro covered
    have account := deficits_update s p fun y => { y with reserve, limit }
    have own := deficit_le_deficits s p
    rw [not_not] at state
    simp only [deficit_eq, state, reduceCtorEq, if_false] at account own short
    have shared : s.sharedFree = s.pool.free - s.deficits := rfl
    rw [poolCovered_iff] at covered ⊢
    change (s.withPart p _).deficits ≤ s.pool.free
    omega

theorem purse_openWindow (w : WNum) (p : PNum) (b l : Nat) (a : Access) : purse (s.openWindow w p b l a).1 = purse s := by
  unfold State.openWindow
  split_ifs
  case neg => split <;> rfl
  all_goals rfl

theorem purse_lockWindow (w : WNum) : purse (s.lockWindow w).1 = purse s := by
  unfold State.lockWindow
  split_ifs <;> rfl

theorem purse_closeWindow (w : WNum) (tag : Tag) : purse (s.closeWindow w tag).1 = purse s := by
  unfold State.closeWindow
  split
  case h_4 =>
    split_ifs
    · rfl
    · split <;> rfl
  all_goals rfl

theorem purse_setFence (f : FNum) (b l : Nat) (tag : Tag) : purse (s.setFence f b l tag).1 = purse s := by
  unfold State.setFence
  split_ifs
  case neg => split <;> rfl
  all_goals rfl

theorem purse_clearFence (f : FNum) : purse (s.clearFence f).1 = purse s := by
  unfold State.clearFence
  split_ifs <;> rfl

/-- After a reset no partition has a reserve in the pool. -/
theorem poolCovered_of_reset {t : State} (h : t.parts = Vector.replicate 16 Partition.reset) : PoolCovered t := by
  have none : t.deficits = 0 := by
    simp [State.deficits, State.part, h, total, Partition.reset, deficit_eq]
  rw [poolCovered_iff, none]
  exact Nat.zero_le _

end Pool

theorem coverHeld_law : StepLaw CoverHeld where
  trans h k := k ∘ h
  same h := coverHeld_of_purse (purse_of_ledger h)
  work := coverHeld_doWork
  endRecord s id := coverHeld_of_purse (purse_endRecord s id)
  functionReset _ _ := poolCovered_of_reset rfl
  closeWindows _ _ := id
  openPartition := coverHeld_openPartition
  setPool := coverHeld_setPool
  openWindow _ _ _ _ _ _ := coverHeld_of_purse (purse_openWindow ..)
  lockWindow _ _ := coverHeld_of_purse (purse_lockWindow ..)
  closeWindow _ _ _ := coverHeld_of_purse (purse_closeWindow ..)
  setFence _ _ _ _ _ := coverHeld_of_purse (purse_setFence ..)
  clearFence _ _ := coverHeld_of_purse (purse_clearFence ..)
  lockFences _ := id

theorem purse_scrubOn (s : State) : purse s.scrubOn = purse s := by
  unfold State.scrubOn
  split <;> rfl

/-- R105: every command keeps the cover. -/
theorem coverHeld_exec {c : Instr} {s t : State} (h : exec c s = .next t) : CoverHeld s t := by
  cases c with
  | powerOnReset | busReset =>
    obtain rfl := Host.Outcome.next.inj h
    exact fun _ => poolCovered_of_reset rfl
  | scrubComplete =>
    obtain rfl := Host.Outcome.next.inj h
    split
    all_goals exact id
  | cardReadDataReturn id =>
    change (match s.cardRead id with | none => _ | some o => _) = _ at h
    split at h
    · exact Host.Outcome.next.inj h ▸ coverHeld_law.refl s
    next o _ =>
      split at h
      · cases h
      · obtain rfl := Host.Outcome.next.inj h
        have taken : purse (s.readTaken o) = purse s := purse_scrubOn s
        refine coverHeld_law.cardEnd (coverHeld_of_purse taken) fun u i k => ?_
        split <;> simp
  | cardWriteAcknowledge id a b =>
    change (match s.cardWrite id with | none => _ | some o => _) = _ at h
    split at h
    · exact Host.Outcome.next.inj h ▸ coverHeld_law.refl s
    next o _ =>
      split at h
      · cases h
      · obtain rfl := Host.Outcome.next.inj h
        have reached : purse (s.writeReached o a b) = purse s := purse_scrubOn s
        exact coverHeld_law.cardEnd (coverHeld_of_purse reached) fun u i k => ledger_endChunk ..
  | _ => exact coverHeld_law.exec rfl h

/-- Settles O57: the time step leaves the pool's account, and every command keeps it covered, since a buffer goes only where R106
allows and a reserve enters only where shared free holds it. -/
theorem poolCoveredKept : Obligations.PoolCoveredKept := by
  intro s t covered h
  rcases step_cases h with rfl | ⟨c, rest, h⟩
  · exact coverHeld_law.same (ledger_tick s) covered
  · exact coverHeld_exec (s := s.withPending rest) h covered

end Sys2Proof.Machine.Proofs
end

section
/-! Card memory word by word (R2, R4, R5): what an access that comes to a word changes, and what the scrub leaves. -/

namespace Sys2Proof.Machine.Proofs

open Laws

/-! ### Marks -/

theorem mem_markSet {l : List Nat} {v w : Nat} : v ∈ markSet l w ↔ v = w ∨ v ∈ l := by
  induction l with
  | nil => simp [markSet]
  | cons x l ih =>
    unfold markSet
    split
    · simp
    · split
      next same => simp [same]
      next => simp [ih, or_left_comm]

theorem mem_markClear {l : List Nat} {v w : Nat} : v ∈ markClear l w ↔ v ∈ l ∧ v ≠ w := by
  simp [markClear]

/-! ### A word -/

theorem wordOf_eq_iff {a w : Nat} : wordOf a = w ↔ 8 * w ≤ a ∧ a < 8 * w + 8 := by
  unfold wordOf
  omega

/-- Byte `i` of word `w` as a write of `data` from `base` leaves it. -/
def storeByte (base : Nat) (data : List Byte) (w : Nat) (m : List Host.Cell) (i : Nat) : List Host.Cell :=
  match data[8 * w + i - base]? with
  | some b => if base ≤ 8 * w + i then writeByte m (8 * w + i) b else m
  | none => m

theorem storeWord_eq (m : List Host.Cell) (base : Nat) (data : List Byte) (w : Nat) :
    storeWord m base data w = (List.range 8).foldl (storeByte base data w) m := rfl

theorem wf_storeByte {m : List Host.Cell} (form : Memory.wf m = true) (base : Nat) (data : List Byte) (w i : Nat) :
    Memory.wf (storeByte base data w m i) = true := by
  unfold storeByte
  split
  · split_ifs
    · exact wf_writeByte form ..
    · exact form
  · exact form

theorem readByte_storeByte {m : List Host.Cell} (form : Memory.wf m = true) (base : Nat) (data : List Byte) (w i a : Nat) :
    readByte (storeByte base data w m i) a
      = if a = 8 * w + i ∧ base ≤ a ∧ a < base + data.length then (data[a - base]?).getD 0 else readByte m a := by
  unfold storeByte
  split
  next b found =>
    obtain ⟨bound, -⟩ := List.getElem?_eq_some_iff.mp found
    split
    next inRange =>
      rw [readByte_writeByte form]
      by_cases here : a = 8 * w + i
      · subst here
        have bounded : 8 * w + i < base + data.length := by omega
        simp [inRange, bounded, found]
      · simp [here]
    next below =>
      refine (if_neg ?_).symm
      rintro ⟨rfl, low, -⟩
      exact below low
  next none =>
    rw [List.getElem?_eq_none_iff] at none
    exact (if_neg fun h => by omega).symm

theorem ite_either {α : Type} (p q r : Prop) [Decidable p] [Decidable q] [Decidable r] (x y : α) :
    (if q ∧ r then x else if p ∧ r then x else y) = if (p ∨ q) ∧ r then x else y := by
  by_cases hq : q <;> by_cases hr : r <;> simp [hq, hr]

theorem readByte_storeBytes {m : List Host.Cell} (form : Memory.wf m = true) (base : Nat) (data : List Byte) (w : Nat)
    (l : List Nat) (a : Nat) :
    readByte (l.foldl (storeByte base data w) m) a
      = if (∃ i ∈ l, a = 8 * w + i) ∧ base ≤ a ∧ a < base + data.length then (data[a - base]?).getD 0 else readByte m a := by
  induction l generalizing m with
  | nil => simp
  | cons i l ih =>
    have first : (∃ j ∈ i :: l, a = 8 * w + j) ↔ a = 8 * w + i ∨ ∃ j ∈ l, a = 8 * w + j := by simp
    rw [List.foldl_cons, ih (wf_storeByte form ..), readByte_storeByte form]
    simp only [first]
    exact ite_either _ _ _ _ _

/-- R2: the bytes of a write that lie in a word are stored there, and no other byte changes. -/
theorem readByte_storeWord {m : List Host.Cell} (form : Memory.wf m = true) (base : Nat) (data : List Byte) (w a : Nat) :
    readByte (storeWord m base data w) a
      = if wordOf a = w ∧ base ≤ a ∧ a < base + data.length then (data[a - base]?).getD 0 else readByte m a := by
  have inWord : (∃ i ∈ List.range 8, a = 8 * w + i) ↔ wordOf a = w := by
    simp only [List.mem_range, wordOf_eq_iff]
    constructor
    · rintro ⟨i, hi, rfl⟩
      omega
    · intro h
      exact ⟨a - 8 * w, by omega, by omega⟩
  rw [storeWord_eq, readByte_storeBytes form]
  simp only [inWord]

/-- What is outside a set of words is as it was. -/
structure SameOutside (inside : Nat → Prop) (c d : Card) : Prop where
  bytes : ∀ a, ¬inside (wordOf a) → readByte d.mem a = readByte c.mem a
  marks : ∀ w, ¬inside w → (w ∈ d.marks ↔ w ∈ c.marks)

namespace SameOutside
variable {inside : Nat → Prop}

theorem refl (c : Card) : SameOutside inside c c := ⟨fun _ _ => rfl, fun _ _ => .rfl⟩

theorem trans {c d e : Card} (h : SameOutside inside c d) (k : SameOutside inside d e) : SameOutside inside c e :=
  ⟨fun a out => (k.bytes a out).trans (h.bytes a out), fun w out => (k.marks w out).trans (h.marks w out)⟩

/-- R2, R4: an access that comes to a word changes that word alone. -/
theorem come {c : Card} (form : Memory.wf c.mem = true) (o : CardOp) {w : Nat} (bad : Bool) (hw : inside w) :
    SameOutside inside c (c.come o w bad) := by
  unfold Card.come
  split
  · refine ⟨fun a out => ?_, fun v out => ?_⟩
    · have other : wordOf a ≠ w := fun e => out (e ▸ hw)
      exact (readByte_storeWord form _ _ w a).trans (if_neg fun h => other h.1)
    · have other : v ≠ w := fun e => out (e ▸ hw)
      change v ∈ (if _ then _ else if _ then _ else _) ↔ _
      split_ifs
      · simp [mem_markClear, other]
      · simp [mem_markSet, other]
      · rfl
  · exact ⟨fun _ _ => rfl, fun _ _ => .rfl⟩

theorem comeAll {c : Card} (form : Memory.wf c.mem = true) {w : Nat} (hw : inside w) (bad : CardOp → Bool) (l : List CardOp) :
    SameOutside inside c (l.foldl (fun c o => c.come o w (bad o)) c) := by
  induction l generalizing c with
  | nil => exact refl c
  | cons o l ih => exact (come form o (bad o) hw).trans (ih (wf_come form ..))

theorem othersFirst {cd : Card × Nat} (form : Memory.wf cd.1.mem = true) {w : Nat} (hw : inside w) (id : Nat) (write : Bool) :
    SameOutside inside cd.1 (Card.othersFirst id write w cd).1 := by
  unfold Card.othersFirst
  split
  · exact comeAll form hw (fun o => Config.mergeFails cd.2 o.id) _
  · exact refl _

/-- R5, R2: the accesses that come to words of the scrub's stretch before it. -/
theorem scrubFold {cd : Card × Nat} (form : Memory.wf cd.1.mem = true) {l : List Nat} (hl : ∀ w ∈ l, inside w) :
    SameOutside inside cd.1 (l.foldl (fun cd w => Card.othersFirst cd.1.nextOp true w cd) cd).1 := by
  induction l generalizing cd with
  | nil => exact refl _
  | cons w l ih =>
    have here : inside w := hl w (List.mem_cons_self ..)
    exact (othersFirst form here ..).trans (ih (wf_othersFirst _ _ _ form) fun v hv => hl v (List.mem_cons_of_mem _ hv))

end SameOutside

/-! ### The scrub -/

theorem mem_zeroed_marks {c : Card} {p n w : Nat} : w ∈ (c.zeroed p n).marks ↔ w ∈ c.marks ∧ ¬(p ≤ w ∧ w < n) := by
  simp [Card.zeroed, imp_iff_not_or]

/-- R5: what a scrub that has come to word `p` leaves when it has gone on to word `n`. -/
structure Scrubbed (p n : Nat) (c d : Card) : Prop where
  scrub : d.scrub = some (max p n)
  zero : ∀ a, p ≤ wordOf a → wordOf a < n → readByte d.mem a = 0
  unmarked : ∀ w, p ≤ w → w < n → w ∉ d.marks

theorem scrubbed_scrubTo {c : Card} {p : Nat} (h : c.scrub = some p) (n d : Nat) :
    Scrubbed p n c (Card.scrubTo n (c, d)).1 := by
  unfold Card.scrubTo
  simp only [h]
  exact ⟨rfl, fun a lo hi => (readByte_zeroed _ p n a).trans (if_pos ⟨lo, hi⟩), fun w lo hi marked =>
    (mem_zeroed_marks.mp marked).2 ⟨lo, hi⟩⟩

/-- R5: bytes and marks outside the stretch are as they were, whichever accesses come first. -/
theorem sameOutside_scrubTo {c : Card} (form : Memory.wf c.mem = true) {p : Nat} (h : c.scrub = some p) (n d : Nat) :
    SameOutside (fun w => p ≤ w ∧ w < n) c (Card.scrubTo n (c, d)).1 := by
  have inWay : ∀ w ∈ c.wordsInWay p n, p ≤ w ∧ w < n := by
    intro w hw
    simp only [Card.wordsInWay, List.mem_dedup, List.mem_filter, Bool.and_eq_true, decide_eq_true_eq] at hw
    exact hw.2
  unfold Card.scrubTo
  simp only [h]
  refine (SameOutside.scrubFold (cd := (c, d)) form inWay).trans ⟨fun a out => ?_, fun w out => ?_⟩
  · exact (readByte_zeroed _ p n a).trans (if_neg out)
  · exact mem_zeroed_marks.trans (and_iff_left out)

theorem cardSize_eq_words (s : State) : s.cardSize = 8 * (s.cardSize / 8) := by
  unfold State.cardSize strapSize
  split <;> rfl

/-- Settles O4: the scrub's stretch runs from the word it has come to up to the strapped size; what outstanding accesses do first
they do to words of the stretch. -/
theorem scrubZeroesMemory : Obligations.ScrubZeroesMemory := by
  intro s n scrub inInit form
  have words := cardSize_eq_words s
  have outside := sameOutside_scrubTo (c := s.card) form scrub (s.cardSize / 8) s.draws
  have scrubbed := scrubbed_scrubTo (c := s.card) scrub (s.cardSize / 8) s.draws
  refine ⟨_, congrArg Host.Outcome.next (if_pos ⟨by simp [scrub], inInit⟩), rfl, rfl, fun a lo hi => ?_, fun a out => ?_, fun w => ?_,
    fun idle => ?_⟩
  · exact scrubbed.zero a (by unfold wordOf; omega) (by unfold wordOf; omega)
  · refine outside.bytes a fun inside => ?_
    unfold wordOf at inside
    omega
  · change w ∈ (Card.scrubTo (s.cardSize / 8) (s.card, s.draws)).1.marks ↔ _
    by_cases inside : n ≤ w ∧ w < s.cardSize / 8
    · exact iff_of_false (scrubbed.unmarked w inside.1 inside.2) fun h => by omega
    · rw [outside.marks w inside]
      refine (and_iff_left ?_).symm
      omega
  · have alone := scrubTo_alone n (s.cardSize / 8) s.draws scrub idle
    unfold State.scrubEnd
    rw [alone]
    rfl

end Sys2Proof.Machine.Proofs
end

section
/-! Steps and the resets of the whole part (R1, R5, R189, R194): O1, O2 and O3. -/

namespace Sys2Proof.Machine.Proofs

open Laws

/-! ### Power-on values -/

theorem powerUp_reset : State.reset.powerUp 0 = State.reset := (rfl)

/-- R194: every block but card memory has its power-on value. -/
theorem powerOnBlocks_powerUp (k : BitVec 2) {s u : State} (f : Card → Card) (queue : u.pending = s.pending)
    (memory : s.card.scrub = none → (f (u.powerUp k).card).mem = s.card.mem ∧ (f (u.powerUp k).card).marks = s.card.marks) :
    PowerOnBlocks k s ((u.powerUp k).withCard f) := by
  refine ⟨rfl, rfl, rfl, rfl, rfl, rfl, rfl, rfl, memory, fun w => ?_, look_replicate _, rfl, rfl, fun p => ?_, rfl, look_replicate _,
    fun i => ?_, rfl, fun b => ?_, rfl, rfl, rfl, rfl, rfl, look_replicate _, rfl, rfl, rfl, look_replicate _, rfl, rfl, queue⟩
  · have free : ((u.powerUp k).withCard f).window w = Window.free := look_replicate ..
    rw [free]
    exact ⟨rfl, rfl, rfl, rfl⟩
  · have closed : ((u.powerUp k).withCard f).part p = Partition.reset := look_replicate ..
    rw [closed]
    exact partitionAtReset_reset
  · have free : ((u.powerUp k).withCard f).slot i = Slot.free := look_replicate ..
    rw [free]
    rfl
  · have free : ((u.powerUp k).withCard f).buffer b = { owner := none, data := List.replicate 2048 0 } := look_replicate ..
    rw [free]

/-- Settles O2: the reset state is a power-up at its strap setting, with no window to overlap and no partition with a deficit. -/
theorem resetState : Obligations.ResetState := by
  refine ⟨powerOnBlocks_powerUp (s := State.reset) (u := State.reset) 0 id rfl fun h => ?_, rfl, rfl, fun v w a used => ?_,
    poolCovered_of_reset rfl, rfl⟩
  · exact absurd h (by decide)
  · exact absurd (congrArg Window.st (look_replicate Window.free v)) used

/-! ### The scrub before a reset -/

theorem scrubOn_pending (s : State) : s.scrubOn.pending = s.pending := by
  unfold State.scrubOn
  split <;> rfl

/-- The word that a scrub has come to at a reset (log 16). -/
def reachedBy (s : State) (n : Nat) : Nat := min (n + Config.scrubPace s.draws) (s.cardSize / 8 - 1)

theorem scrubOn_card {s : State} {n : Nat} (h : s.card.scrub = some n) :
    s.scrubOn.card = (Card.scrubTo (reachedBy s n) (s.card, s.draws + 1)).1 := by
  unfold State.scrubOn
  rw [h]
  rfl

theorem scrubOn_memory {s : State} (h : s.card.scrub = none) :
    s.scrubOn.card.mem = s.card.mem ∧ s.scrubOn.card.marks = s.card.marks := by
  rw [scrubOn_none h]
  exact ⟨rfl, rfl⟩

/-- Settles O3: both resets are a power-up after the scrub, if one runs, has gone on to some word. -/
theorem powerOnAndBusReset : Obligations.PowerOnAndBusReset := by
  intro k s
  refine ⟨⟨_, rfl, powerOnBlocks_powerUp k _ (scrubOn_pending s) scrubOn_memory, rfl⟩,
    _, rfl, powerOnBlocks_powerUp k id (scrubOn_pending s) scrubOn_memory, fun off => ?_, fun n runs => ?_⟩
  · exact (congrArg (fun u : State => u.card.scrub) (scrubOn_none off)).trans off
  · have scrubbed := scrubbed_scrubTo (c := s.card) runs (reachedBy s n) (s.draws + 1)
    change ∃ m, n ≤ m ∧ s.scrubOn.card.scrub = some m ∧ (∀ a, _ → _ → readByte s.scrubOn.card.mem a = 0)
      ∧ (∀ w, _ → _ → w ∉ s.scrubOn.card.marks) ∧ (_ → (∀ a, _ → readByte s.scrubOn.card.mem a = _)
        ∧ ∀ w, _ → (w ∈ s.scrubOn.card.marks ↔ _))
    rw [scrubOn_card runs]
    refine ⟨max n (reachedBy s n), le_max_left .., scrubbed.scrub, fun a lo hi => scrubbed.zero a ?_ ?_,
      fun w lo hi => scrubbed.unmarked w lo (by omega), fun idle => ?_⟩
    · unfold wordOf
      omega
    · unfold wordOf
      omega
    · rw [scrubTo_alone n _ _ runs idle]
      refine ⟨fun a out => (readByte_zeroed s.card n (reachedBy s n) a).trans (if_neg fun inside => ?_), fun w out => ?_⟩
      · unfold wordOf at inside
        omega
      · refine (mem_zeroed_marks (c := s.card) (n := reachedBy s n)).trans (and_iff_left ?_)
        omega

/-! ### Steps -/

theorem elapse_halted {s : State} (h : s.halted = true) (n : Nat) :
    s.elapse n = { s with link := { s.link with tags := mapTab (fun _ t => t.elapse n) s.link.tags } } := if_pos h

theorem elapse_live {s : State} (h : ¬s.halted = true) (n : Nat) :
    s.elapse n = { s with
      link := { s.link with tags := mapTab (fun _ t => t.elapse n) s.link.tags }
      vectors := mapTab (fun _ v => v.elapse n) s.vectors } := if_neg h

theorem halted_iff (s : State) : s.halted = true ↔ s.device.st = .halted := decide_eq_true_iff

theorem elapse_tag (s : State) (n : Nat) (t : TNum) : (s.elapse n).tag t = (s.tag t).elapse n := by
  by_cases h : s.halted = true
  · rw [elapse_halted h]
    exact look_mapTab ..
  · rw [elapse_live h]
    exact look_mapTab ..

theorem elapse_vector (s : State) (n : Nat) (v : VNum) :
    (s.elapse n).vector v = if s.device.st = .halted then s.vector v else (s.vector v).elapse n := by
  by_cases h : s.halted = true
  · rw [elapse_halted h, if_pos ((halted_iff s).mp h)]
    rfl
  · rw [elapse_live h, if_neg fun e => h ((halted_iff s).mpr e)]
    exact look_mapTab ..

/-- An elapse changes the timers alone. -/
theorem elapse_eq (s : State) (n : Nat) :
    s.elapse n = { s with vectors := (s.elapse n).vectors, link := { s.link with tags := (s.elapse n).link.tags } } := by
  by_cases h : s.halted = true
  · rw [elapse_halted h]
  · rw [elapse_live h]

/-- Settles O1: a step with a command waiting is that command; one without is the time step, which ends an INIT without a scrub. -/
theorem stepRunsFrontCommand : Obligations.StepRunsFrontCommand := by
  intro s
  refine ⟨fun c rest queue => ?_, fun empty => ⟨s.tick, ?_, fun n => ?_, fun n => ?_, ?_⟩⟩
  · unfold step
    rw [queue]
    rfl
  · unfold step
    rw [empty]
  · have kept : s.tick.tag n = (s.elapse 1).tag n := by
      unfold State.tick State.endInit
      split <;> rfl
    rw [kept, elapse_tag]
    cases s.tag n <;> rfl
  · have kept : s.tick.vector n = (s.elapse 1).vector n := by
      unfold State.tick State.endInit
      split <;> rfl
    rw [kept, elapse_vector]
    rfl
  · unfold State.tick State.endInit
    rw [elapse_eq s 1]
    split_ifs <;> rfl

end Sys2Proof.Machine.Proofs
end

section
/-! The register window (R183 to R190): O6, O8, O9 and O10. -/

namespace Sys2Proof.Machine.Proofs

open Laws

/-! ### Fields of a register -/

theorem extractLsb'_ofNat_eq {N lo n x : Nat} (fits : N < 2 ^ 32) (h : N / 2 ^ lo % 2 ^ n = x) :
    (BitVec.ofNat 32 N).extractLsb' lo n = BitVec.ofNat n x := by
  refine BitVec.eq_of_toNat_eq ?_
  rw [BitVec.extractLsb'_toNat, BitVec.toNat_ofNat, BitVec.toNat_ofNat, Nat.mod_eq_of_lt fits, Nat.shiftRight_eq_div_pow, ← h, Nat.mod_mod]

theorem getLsbD_ofNat_eq {N i : Nat} {b : Bool} (inside : i < 32) (h : N / 2 ^ i % 2 = bit b) : (BitVec.ofNat 32 N).getLsbD i = b := by
  rw [BitVec.getLsbD_ofNat, Nat.testBit_eq_decide_div_mod_eq, h]
  cases b <;> simp [bit, inside]

theorem bit_lt_two (b : Bool) : bit b < 2 := by cases b <;> decide

/-- The sum that R183 gives for STATUS, its fields within their widths. -/
structure StatusFields (N st fault cause config notify halt : Nat) : Prop where
  sum : N = st + fault * 2 ^ 3 + cause * 2 ^ 4 + config * 2 ^ 8 + notify * 2 ^ 9 + halt * 2 ^ 12
  st : st < 8
  fault : fault < 2
  cause : cause < 4
  config : config < 2
  notify : notify < 2
  halt : halt < 4

/-- The number that STATUS spells. -/
def statusNumber (s : State) : Nat :=
  s.device.st.code + bit s.admin.faulted * 2 ^ 3
    + (if s.admin.faulted then (s.admin.faultCause.map ChannelFault.code).getD 0 else 0) * 2 ^ 4
    + bit s.device.configError * 2 ^ 8 + bit s.device.notifyRejected * 2 ^ 9
    + (s.device.haltCause.map HaltCause.code).getD 0 * 2 ^ 12

theorem statusValue_eq (s : State) : s.statusValue = BitVec.ofNat 32 (statusNumber s) := (rfl)

theorem deviceStateCode_lt (d : DeviceState) : d.code < 8 := by cases d <;> decide

theorem channelFaultCode_lt (c : Option ChannelFault) : (c.map ChannelFault.code).getD 0 < 4 := by
  rcases c with _ | c
  · decide
  · cases c <;> decide

theorem haltCauseCode_lt (c : Option HaltCause) : (c.map HaltCause.code).getD 0 < 4 := by
  rcases c with _ | c
  · decide
  · cases c <;> decide

theorem statusFields (s : State) :
    StatusFields (statusNumber s) s.device.st.code (bit s.admin.faulted)
      (if s.admin.faulted then (s.admin.faultCause.map ChannelFault.code).getD 0 else 0) (bit s.device.configError)
      (bit s.device.notifyRejected) ((s.device.haltCause.map HaltCause.code).getD 0) where
  sum := rfl
  st := deviceStateCode_lt _
  fault := bit_lt_two _
  cause := by
    split
    · exact channelFaultCode_lt _
    · decide
  config := bit_lt_two _
  notify := bit_lt_two _
  halt := haltCauseCode_lt _

/-! ### Offsets -/

theorem readRegister_ident (s : State) : s.readRegister 0x000 = s.identValue := (rfl)
theorem readRegister_status (s : State) : s.readRegister 0x008 = s.statusValue := (rfl)

/-- R184: what is not listed reads 0. -/
theorem readRegister_unlisted (s : State) {offset : BitVec 12}
    (h : offset ∉ [0x000#12, 0x004#12, 0x008#12, 0x010#12, 0x014#12, 0x018#12, 0x01C#12, 0x020#12]) : s.readRegister offset = 0 := by
  simp only [List.mem_cons, List.not_mem_nil, or_false, not_or, ← BitVec.toNat_inj] at h
  obtain ⟨h0, h1, h2, h3, h4, h5, h6, h7⟩ := h
  unfold State.readRegister
  split
  · exact absurd ‹_› h0
  · exact absurd ‹_› h1
  · exact absurd ‹_› h2
  · exact absurd ‹_› h3
  · exact absurd ‹_› h4
  · exact absurd ‹_› h5
  · exact absurd ‹_› h6
  · exact absurd ‹_› h7
  · rfl

theorem sizeCode_lt (k : BitVec 2) : sizeCode k < 4 := by
  unfold sizeCode
  split <;> decide

/-- R183: the code of the strapped size. -/
theorem sizeCode_field (k : BitVec 2) :
    BitVec.ofNat 2 (sizeCode k) = (if k = 1 then 1#2 else if k = 2 then 2#2 else 0#2) := by
  revert k
  decide

/-- Settles O9: IDENT and STATUS are sums of fields that do not overlap, so each field is read off by its place. -/
theorem registerReads : Obligations.RegisterReads := by
  intro s offset at' width value
  have small := sizeCode_lt s.device.strap
  obtain ⟨sum, st, fault, cause, config, notify, halt⟩ := statusFields s
  generalize hn : statusNumber s = N at sum
  simp only [readRegister_ident, readRegister_status, State.identValue, statusValue_eq, hn]
  have fits : N < 2 ^ 32 := by omega
  refine ⟨?_, rfl, ?_, ?_, ?_, ?_, ?_, ?_, readRegister_control s, ?_, ?_, ?_, ?_, ?_, ?_, ?_, ?_, ?_, readRegister_unlisted s⟩
  · rw [← hn]
    rfl
  · exact extractLsb'_ofNat_eq (by omega) (by omega)
  · exact extractLsb'_ofNat_eq (by omega) (by omega)
  · rw [← sizeCode_field]
    exact extractLsb'_ofNat_eq (by omega) (by omega)
  · exact extractLsb'_ofNat_eq (by omega) (by omega)
  · exact extractLsb'_ofNat_eq (by omega) (by omega)
  · exact extractLsb'_ofNat_eq (by omega) (by omega)
  · refine (extractLsb'_ofNat_eq (x := s.device.st.code) fits (by omega)).trans ?_
    cases s.device.st <;> rfl
  · exact getLsbD_ofNat_eq (by decide) (by omega)
  · refine (extractLsb'_ofNat_eq (x := if s.admin.faulted then (s.admin.faultCause.map ChannelFault.code).getD 0 else 0) fits
      (by omega)).trans ?_
    split
    · rcases s.admin.faultCause with _ | c
      · rfl
      · cases c <;> rfl
    · rfl
  · exact getLsbD_ofNat_eq (by decide) (by omega)
  · exact getLsbD_ofNat_eq (by decide) (by omega)
  · refine (extractLsb'_ofNat_eq (x := (s.device.haltCause.map HaltCause.code).getD 0) fits (by omega)).trans ?_
    rcases s.device.haltCause with _ | c
    · rfl
    · cases c <;> rfl
  · exact extractLsb'_ofNat_eq fits (by omega)
  · exact extractLsb'_ofNat_eq fits (by omega)
  · exact extractLsb'_ofNat_eq fits (by omega)

/-! ### The admin ring registers -/

theorem writeRegister_ready {s : State} (ready : s.device.st = .ready) (f : Device → Device) :
    s.writeRegister f = { s with device := f s.device } := if_pos ready

theorem writeRegister_notReady {s : State} (notReady : s.device.st ≠ .ready) (f : Device → Device) : s.writeRegister f = s :=
  if_neg notReady

theorem writeBase_low (old : HostAddr) (h : BitVec 32) : writeBase old (.low h) = old.extractLsb' 32 32 ++ h := by
  refine BitVec.eq_of_getLsbD_eq fun i hi => Eq.trans ?_ (BitVec.getLsbD_append (x := old.extractLsb' 32 32) (y := h)).symm
  unfold writeBase
  by_cases low : i < 32
  · simp [low, hi]
  · have inner : i - 32 < 32 := by omega
    have place : 32 + (i - 32) = i := by omega
    have beyond : h.getLsbD i = false := BitVec.getLsbD_of_ge h i (by omega)
    simp [low, inner, place, hi, beyond]

theorem writeBase_high (old : HostAddr) (h : BitVec 32) : writeBase old (.high h) = h ++ old.extractLsb' 0 32 := by
  refine BitVec.eq_of_getLsbD_eq fun i hi => Eq.trans ?_ (BitVec.getLsbD_append (x := h) (y := old.extractLsb' 0 32)).symm
  unfold writeBase
  by_cases low : i < 32
  · simp [low, hi]
  · simp [low, hi]

theorem readRegister_sqLow (s : State) : s.readRegister 0x010 = s.device.adminSqBase.extractLsb' 0 32 :=
  (BitVec.setWidth_eq_extractLsb' (by decide)).trans rfl

theorem readRegister_cqLow (s : State) : s.readRegister 0x018 = s.device.adminCqBase.extractLsb' 0 32 :=
  (BitVec.setWidth_eq_extractLsb' (by decide)).trans rfl

theorem shifted_setWidth (x : BitVec 64) : (x >>> 32).setWidth 32 = x.extractLsb' 32 32 := by
  refine BitVec.eq_of_getLsbD_eq fun i hi => ?_
  simp [hi]

/-- R191: the end of a stop leaves the registers and card memory. -/
theorem endStop_kept (s : State) :
    s.endStop.device.adminSqBase = s.device.adminSqBase ∧ s.endStop.device.adminCqBase = s.device.adminCqBase
      ∧ s.endStop.device.adminSizes = s.device.adminSizes ∧ s.endStop.card = s.card := by
  unfold State.endStop
  split <;> exact ⟨rfl, rfl, rfl, rfl⟩

/-- What a step's inner events leave as it is before the end of a stop is looked for. -/
theorem steady_settled (s : State) (before n : Nat) (ws : List Work) : Steady s ((State.settle n s ws).reevaluate before) :=
  (settle_steady n s ws).trans (.of_outer (outer_reevaluate ..))

/-- R187: a stop keeps the admin ring registers, and it keeps card memory (R191). -/
theorem exec_stop_kept {s t : State} (h : exec .stop s = .next t) :
    t.device.adminSqBase = s.device.adminSqBase ∧ t.device.adminCqBase = s.device.adminCqBase
      ∧ t.device.adminSizes = s.device.adminSizes ∧ t.card.mem = s.card.mem := by
  obtain rfl := Host.Outcome.next.inj h
  split
  · split
    · exact ⟨rfl, rfl, rfl, rfl⟩
    · have steady := (steady_beginStop s).trans (steady_settled _ s.sharedFree Config.innerBound s.beginStop.2)
      obtain ⟨sqBase, cqBase, sizes, card⟩ := endStop_kept _
      exact ⟨sqBase.trans steady.sqBase, cqBase.trans steady.cqBase, sizes.trans steady.sizes, (congrArg Card.mem card).trans steady.mem⟩
  · exact ⟨rfl, rfl, rfl, rfl⟩

theorem tryFunctionReset_kept (s : State) :
    s.tryFunctionReset.device.adminSqBase = s.device.adminSqBase ∧ s.tryFunctionReset.device.adminCqBase = s.device.adminCqBase
      ∧ s.tryFunctionReset.device.adminSizes = s.device.adminSizes := by
  unfold State.tryFunctionReset
  split <;> exact ⟨rfl, rfl, rfl⟩

/-- Settles O8: the writes replace the register or a half of it in READY alone; the two great resets set the registers to 0. -/
theorem adminRegisterWrites : Obligations.AdminRegisterWrites := by
  intro s v h z k b
  refine ⟨fun ready => ?_, fun notReady a => ?_, readRegister_sqLow s, shifted_setWidth _, readRegister_cqLow s, shifted_setWidth _, rfl,
    fun c hc t ht => ?_, fun c hc t ht => ?_⟩
  · have write (f : Device → Device) : Host.Outcome.next (s.writeRegister f) = (.next { s with device := f s.device } :
        Host.Outcome State Fault Refusal) := congrArg _ (writeRegister_ready ready f)
    refine ⟨write _, (write _).trans ?_, (write _).trans ?_, write _, (write _).trans ?_, (write _).trans ?_, write _⟩
    · rw [writeBase_low]
    · rw [writeBase_high]
    · rw [writeBase_low]
    · rw [writeBase_high]
  · have ignored (f : Device → Device) : Host.Outcome.next (s.writeRegister f) = (.next s : Host.Outcome State Fault Refusal) :=
      congrArg _ (writeRegister_notReady notReady f)
    exact ⟨ignored _, ignored _, ignored _⟩
  · rcases List.mem_pair.mp hc with rfl | rfl <;> obtain rfl := Host.Outcome.next.inj ht <;> exact ⟨rfl, rfl, rfl⟩
  · simp only [List.mem_cons, List.not_mem_nil, or_false] at hc
    rcases hc with rfl | rfl | rfl
    · obtain rfl := Host.Outcome.next.inj ht
      exact tryFunctionReset_kept s
    · obtain rfl := Host.Outcome.next.inj ht
      exact tryFunctionReset_kept s
    · obtain ⟨sqBase, cqBase, sizes, -⟩ := exec_stop_kept ht
      exact ⟨sqBase, cqBase, sizes⟩

/-! ### The enable attempt -/

theorem lowNibble (x : BitVec 32) : (x &&& 0xF).toNat = (x.extractLsb' 0 4).toNat := by
  have mask : (15 : Nat) = 2 ^ 4 - 1 := rfl
  rw [BitVec.toNat_and, BitVec.extractLsb'_toNat]
  exact (congrArg (x.toNat &&& ·) mask).trans (Nat.and_two_pow_sub_one_eq_mod _ 4)

theorem sqLogOf_eq (x : BitVec 32) : sqLogOf x = (x.extractLsb' 0 4).toNat := lowNibble x

theorem cqLogOf_eq (x : BitVec 32) : cqLogOf x = (x.extractLsb' 8 4).toNat := by
  refine (lowNibble (x >>> 8)).trans ?_
  rw [BitVec.extractLsb'_toNat, BitVec.extractLsb'_toNat, BitVec.toNat_ushiftRight, Nat.shiftRight_zero]

/-- R190, R160: the test of an enable attempt. -/
theorem enableOk_iff (d : Device) : d.enableOk = true ↔
    d.adminSqBase.toNat % 4096 = 0 ∧ d.adminCqBase.toNat % 4096 = 0
      ∧ 4 ≤ (d.adminSizes.extractLsb' 0 4).toNat ∧ (d.adminSizes.extractLsb' 0 4).toNat ≤ 8
      ∧ 4 ≤ (d.adminSizes.extractLsb' 8 4).toNat ∧ (d.adminSizes.extractLsb' 8 4).toNat ≤ 8 := by
  rw [← sqLogOf_eq, ← cqLogOf_eq]
  simp only [Device.enableOk, Bool.and_eq_true, decide_eq_true_iff, and_assoc]
  rfl

/-- Settles O6: in READY the test of R190 decides between the take-up of the rings and CONFIG_ERROR. -/
theorem enableAttempt : Obligations.EnableAttempt := by
  intro s
  refine ⟨fun ready passes => ?_, fun ready fails => ?_, exec_enableAttempt_notReady⟩
  · refine (exec_enableAttempt_ready ready).trans (congrArg Host.Outcome.next ((if_pos ((enableOk_iff _).mpr passes)).trans ?_))
    simp only [State.enable, Admin.takeUp, sqLogOf_eq, cqLogOf_eq]
    rfl
  · exact (exec_enableAttempt_ready ready).trans (congrArg Host.Outcome.next (if_neg (mt (enableOk_iff _).mp fails)))

/-! ### NOTIFY turned away -/

/-- Settles O10: every NOTIFY row looks at the device's state first. -/
theorem notifyRejected : Obligations.NotifyRejected := by
  intro s p index selector
  refine ⟨rfl, fun notRunning => ?_⟩
  have off : s.running = false := decide_eq_false notRunning
  have part (act : State → Inner) : s.notifyPart p act = s.rejectNotify := if_pos (by simp [off])
  have other (t : State) : (if s.running then t else s.rejectNotify) = s.rejectNotify := if_neg (by simp [off])
  exact ⟨congrArg _ (part _), congrArg _ (part _), congrArg _ (other _), congrArg _ (other _), congrArg _ (other _)⟩

end Sys2Proof.Machine.Proofs
end

section
/-! NOTIFY at the rings (R43, R44, R152, R170): O11, O13 and O15. -/

namespace Sys2Proof.Machine.Proofs

open Laws

/-! ### Heads -/

theorem ringSpan_eq {hi lo size : Nat} (sized : 0 < size) : ((ringSpan hi lo size : Nat) : Int) = ((hi : Int) - lo) % size := by
  have small : lo % size ≤ hi + size := (Nat.mod_lt lo sized).le.trans (Nat.le_add_left ..)
  rw [ringSpan, Int.natCast_mod, Int.natCast_sub small, Nat.cast_add, Int.natCast_mod]
  rw [Int.sub_emod, Int.add_emod_right, Int.emod_emod_of_dvd _ dvd_rfl, ← Int.sub_emod]

/-- R44, R152, R170: the test of a new head. -/
theorem headValid_iff {new head tail size : Nat} : headValid new head tail size = true ↔ HeadValid new head tail size := by
  unfold headValid HeadValid
  rw [Bool.and_eq_true, decide_eq_true_iff, decide_eq_true_iff]
  refine and_congr_right fun inRange => ?_
  have sized : 0 < size := Nat.zero_lt_of_lt inRange
  rw [← ringSpan_eq sized, ← ringSpan_eq sized, Nat.cast_le]

theorem headValid_false {new head tail size : Nat} (h : ¬HeadValid new head tail size) : headValid new head tail size = false :=
  Bool.eq_false_iff.mpr (mt headValid_iff.mp h)

/-! ### A NOTIFY at a partition -/

section Partition
variable {s : State} {p : PNum}

theorem readPart_ok (good : (s.part p).parityOk = true) : s.parityError [] [] [p] = none :=
  parityError_good s [] [] [p] (fun _ h => absurd h List.not_mem_nil) (fun _ h => absurd h List.not_mem_nil)
    fun _ h => List.mem_singleton.mp h ▸ good

/-- R188: a NOTIFY at a partition whose entry is good is taken and its inner events worked off. -/
theorem notifyPart_taken (running : s.device.st = .running) (good : (s.part p).parityOk = true) (act : State → Inner) :
    s.notifyPart p act = (act s).1.finish s.sharedFree (act s).2 := by
  have on : s.running = true := decide_eq_true running
  unfold State.notifyPart
  rw [readPart_ok good, on]
  rfl

/-- A NOTIFY without inner events that leaves shared free as it was and the device RUNNING. -/
theorem notifyPart_quiet {t : State} (running : s.device.st = .running) (good : (s.part p).parityOk = true) {act : State → Inner}
    (acted : act s = (t, [])) (stays : t.device.st = .running) (kept : t.sharedFree = s.sharedFree) : s.notifyPart p act = t := by
  rw [notifyPart_taken running good, acted]
  exact finish_idle t _ kept (endStop_of_not_stopping _ (running_not_stopping _ stays))

/-! ### Tails -/

theorem takeSqTail_closed (k : Nat) (h : (s.part p).st = .closed) : s.takeSqTail p k = (s.rejectNotify, []) := by
  unfold State.takeSqTail
  dsimp only
  rw [h]

/-- R43: in range a tail is recorded in every state but CLOSED; only OPEN and QUIESCING read on. -/
theorem takeSqTail_inRange {k : Nat} (notClosed : (s.part p).st ≠ .closed) (inRange : k < (s.part p).sqSize) :
    s.takeSqTail p k
      = (if (s.part p).st = .faulted ∨ (s.part p).st = .closing then s.withPart p fun y => { y with sqTail := k }
         else (s.withPart p fun y => { y with sqTail := k }).resumeAssembly p, []) := by
  unfold State.takeSqTail
  cases h : (s.part p).st <;> simp_all

theorem takeSqTail_ignored {k : Nat} (h : (s.part p).st = .faulted ∨ (s.part p).st = .closing) (outOfRange : (s.part p).sqSize ≤ k) :
    s.takeSqTail p k = (s, []) := by
  unfold State.takeSqTail
  rcases h with h | h <;> simp [h, Nat.not_lt.mpr outOfRange]

/-- R45: out of range a tail faults a partition that takes records. -/
theorem takeSqTail_faults {k : Nat} (h : (s.part p).st = .opened ∨ (s.part p).st = .quiescing ∨ (s.part p).st = .quiesced)
    (outOfRange : (s.part p).sqSize ≤ k) : s.takeSqTail p k = (s, [.fault p .sqIndex]) := by
  unfold State.takeSqTail
  rcases h with h | h | h <;> simp [h, Nat.not_lt.mpr outOfRange]

/-- R61: nothing waits for a record, or none is available, or the partition reads none. -/
theorem resumeAssembly_idle (h : ∀ a, s.assembling p = some a → a.readOutstanding = true ∨ (s.part p).sqHead = (s.part p).sqTail
    ∨ ((s.part p).st ≠ .opened ∧ (s.part p).st ≠ .quiescing)) : s.resumeAssembly p = s := by
  unfold State.resumeAssembly
  dsimp only
  split
  next a found =>
    rw [if_neg]
    rintro ⟨reads, waits, available⟩
    rcases h a found with outstanding | empty | notReading
    · simp [waits] at outstanding
    · exact available empty
    · exact reads.elim notReading.1 notReading.2
  next => rfl

theorem resumeAssembly_reads {a : Assembling} (found : s.assembling p = some a)
    (reads : (s.part p).st = .opened ∨ (s.part p).st = .quiescing) (waits : a.readOutstanding = false)
    (available : (s.part p).sqHead ≠ (s.part p).sqTail) : s.resumeAssembly p = s.readRecord p a.slot a.membersRead := by
  unfold State.resumeAssembly
  rw [found]
  exact if_pos ⟨reads, waits, available⟩

/-- A submission record's address is a multiple of 64 where the ring's base is (R53). -/
theorem recordAddr_aligned {y : Partition} (h : (y.sqBase.toNat + 64 * y.sqHead) % 64 = 0) : y.recordAddr.toNat % 64 = 0 := by
  rw [Partition.recordAddr, BitVec.toNat_add, BitVec.toNat_ofNat]
  omega

/-- R60, R176: the read of a record is one request of 64 bytes. -/
theorem readRecord_eq {i : SNum} {n : Nat} (aligned : ((s.part p).sqBase.toNat + 64 * (s.part p).sqHead) % 64 = 0) :
    s.readRecord p i n = (s.withAssembling p (some { slot := i, membersRead := n, readOutstanding := true })).withLink fun l =>
      { l with queue := l.queue ++ [{ requester := .record i, addr := (s.part p).recordAddr, len := 64, place := 0 }] } := by
  rw [State.readRecord, State.askRead, readRequests_record _ _ (recordAddr_aligned aligned)]

end Partition

/-- Settles O11: by the partition's state and the index's range; the read that a recorded tail lets go out is that of the record at
sq_head, which the tail leaves. -/
theorem sqTailTaken : Obligations.SqTailTaken := by
  intro s p index y recorded running good
  have share : recorded.sharedFree = s.sharedFree := sharedFree_withPart _ _ _ rfl
  have entry : recorded.part p = { y with sqTail := index.toNat } := withPart_part_same ..
  have take (t : State) (acted : s.takeSqTail p index.toNat = (t, [])) (stays : t.device.st = .running)
      (kept : t.sharedFree = s.sharedFree) : exec (.notifySqTail p index) s = .next t :=
    congrArg Host.Outcome.next (notifyPart_quiet running good acted stays kept)
  refine ⟨fun closed => take _ (takeSqTail_closed _ closed) running rfl, fun broken outOfRange => take _ (takeSqTail_ignored broken outOfRange)
    running rfl, fun notClosed inRange idle => ?_, fun a reads inRange found waits available aligned => ?_⟩
  · have noRead : recorded.resumeAssembly p = recorded := by
      refine resumeAssembly_idle fun a found => ?_
      rw [entry]
      exact idle a found
    refine take _ ?_ running share
    rw [takeSqTail_inRange notClosed inRange, noRead, ite_self]
  · have notClosed : y.st ≠ .closed := by rcases reads with h | h <;> simp [h]
    have notBroken : ¬(y.st = .faulted ∨ y.st = .closing) := by rcases reads with h | h <;> simp [h]
    have read : recorded.resumeAssembly p = recorded.readRecord p a.slot a.membersRead :=
      resumeAssembly_reads found (entry ▸ reads) waits (entry ▸ available)
    have request := readRecord_eq (s := recorded) (p := p) (i := a.slot) (n := a.membersRead) (entry ▸ aligned)
    rw [entry] at request
    have reading : { a with readOutstanding := true } = { slot := a.slot, membersRead := a.membersRead, readOutstanding := true } := rfl
    refine take _ ?_ running share
    rw [takeSqTail_inRange notClosed inRange, if_neg notBroken, read, request]
    rfl

/-! ### Completion ring heads -/

section CqHead
variable {s : State} {p : PNum} {k : Nat}

theorem takeCqHead_closed (h : (s.part p).st = .closed) : s.takeCqHead p k = (s.rejectNotify, []) := by
  unfold State.takeCqHead
  dsimp only
  rw [h]

/-- R44: a valid head is recorded and reported in every state but CLOSED. -/
theorem takeCqHead_valid (notClosed : (s.part p).st ≠ .closed)
    (valid : HeadValid k (s.part p).cqHead (s.part p).cqTail (s.part p).cqSize) :
    s.takeCqHead p k = ((s.withPart p fun y => { y with cqHead := k }).consumeWrite (partVector p), []) := by
  unfold State.takeCqHead
  have ok := headValid_iff.mpr valid
  cases h : (s.part p).st <;> simp_all

theorem takeCqHead_ignored (h : (s.part p).st = .faulted ∨ (s.part p).st = .closing)
    (invalid : ¬HeadValid k (s.part p).cqHead (s.part p).cqTail (s.part p).cqSize) : s.takeCqHead p k = (s, []) := by
  unfold State.takeCqHead
  have bad := headValid_false invalid
  rcases h with h | h <;> simp [h, bad]

/-- R45: an invalid head faults a partition that takes records. -/
theorem takeCqHead_faults (h : (s.part p).st = .opened ∨ (s.part p).st = .quiescing ∨ (s.part p).st = .quiesced)
    (invalid : ¬HeadValid k (s.part p).cqHead (s.part p).cqTail (s.part p).cqSize) :
    s.takeCqHead p k = (s, [.fault p .cqIndex]) := by
  unfold State.takeCqHead
  have bad := headValid_false invalid
  rcases h with h | h | h <;> simp [h, bad]

theorem consumeWrite_device (n : VNum) : (s.consumeWrite n).device = s.device :=
  congrArg Prod.fst (outer_consumeWrite s n)

end CqHead

/-- Settles O13: by the partition's state and the head's validity. -/
theorem cqHeadTaken : Obligations.CqHeadTaken := by
  intro s p index y running good
  have take (t : State) (acted : s.takeCqHead p index.toNat = (t, [])) (stays : t.device.st = .running)
      (kept : t.sharedFree = s.sharedFree) : exec (.notifyCqHead p index) s = .next t :=
    congrArg Host.Outcome.next (notifyPart_quiet running good acted stays kept)
  refine ⟨fun closed => take _ (takeCqHead_closed closed) running rfl, fun notClosed valid => ?_,
    fun broken invalid => take _ (takeCqHead_ignored broken invalid) running rfl⟩
  refine take _ (takeCqHead_valid notClosed valid) ?_ ?_
  · rw [consumeWrite_device]
    exact running
  · rw [sharedFree_consumeWrite]
    exact sharedFree_withPart _ _ _ rfl

/-! ### The admin completion ring and the event ring -/

section Heads
variable {s : State} {k : Nat}

theorem takeAdminHead_valid (valid : HeadValid k s.admin.cqHead s.poster.index s.admin.cqSize) :
    s.takeAdminHead k = (s.withAdmin fun a => { a with cqHead := k }).consumeWrite adminVector :=
  if_pos (headValid_iff.mpr valid)

theorem takeAdminHead_invalid (invalid : ¬HeadValid k s.admin.cqHead s.poster.index s.admin.cqSize) :
    s.takeAdminHead k = s.channelFault .cqIndex :=
  if_neg (mt headValid_iff.mp invalid)

/-- R152: the ring has room for a record. -/
theorem full_eq_false_iff (r : EventRing) : r.full = false ↔ ringSpan r.tail r.head r.size + 1 < r.size := by
  rw [EventRing.full, decide_eq_false_iff_not, Nat.not_le]
  rfl

/-- R152, R154: a valid head is recorded, and a lost count written first when the ring then has room. -/
theorem eventHead_valid (configured : s.events.configured = true)
    (valid : HeadValid k s.events.head s.events.tail s.events.size) :
    s.eventHead k =
      (if ringSpan s.events.tail k s.events.size + 1 < s.events.size ∧ 0 < s.events.lost then
        (s.withEvents fun r => { r with head := k }).writeLost
      else s.withEvents fun r => { r with head := k }).consumeWrite eventVector := by
  have ok : (s.events.configured && headValid k s.events.head s.events.tail s.events.size) = true := by
    simp [configured, headValid_iff.mpr valid]
  unfold State.eventHead
  refine (if_pos ok).trans (congrArg (State.consumeWrite · eventVector) (if_congr ?_ rfl rfl))
  rw [Bool.and_eq_true, Bool.not_eq_true', full_eq_false_iff, decide_eq_true_iff]
  rfl

theorem eventHead_invalid (h : ¬(s.events.configured = true ∧ HeadValid k s.events.head s.events.tail s.events.size)) :
    s.eventHead k = s.rejectNotify := by
  refine if_neg fun ok => h ?_
  rw [Bool.and_eq_true] at ok
  exact ⟨ok.1, headValid_iff.mp ok.2⟩

end Heads

/-- Settles O15: the head's validity decides, and at the event ring the room that the head makes. -/
theorem adminAndEventHeadsTaken : Obligations.AdminAndEventHeadsTaken := by
  constructor
  · intro s index run valid running
    have taken : run = .next (s.takeAdminHead index.toNat) := congrArg Host.Outcome.next (if_pos (decide_eq_true running))
    refine ⟨fun ok => ?_, fun bad faulted => ?_, fun bad normal => ?_⟩
    · rw [taken, takeAdminHead_valid ok]
      rfl
    · rw [taken, takeAdminHead_invalid bad, channelFault_faulted faulted]
    · rw [taken, takeAdminHead_invalid bad, channelFault_normal normal]
  · intro s index r run valid room recorded running
    have taken : run = .next (s.eventHead index.toNat) := congrArg Host.Outcome.next (if_pos (decide_eq_true running))
    refine ⟨fun ok noRecord => ?_, fun ok lost hasRoom => ?_, fun bad => ?_⟩
    · have nothing : ¬(ringSpan s.events.tail index.toNat s.events.size + 1 < s.events.size ∧ 0 < s.events.lost) := fun h =>
        noRecord.elim (fun none => absurd none (Nat.ne_of_gt h.2)) fun noRoom => noRoom h.1
      rw [taken, eventHead_valid ok.1 ok.2, if_neg nothing]
    · rw [taken, eventHead_valid ok.1 ok.2, if_pos ⟨hasRoom, lost⟩]
      rfl
    · rw [taken, eventHead_invalid bad]
      rfl

end Sys2Proof.Machine.Proofs
end

section
/-! Records and register writes as bytes (R195 to R201, R183, R188): O53. Where a record's bytes are written out, a field is the
bytes of its own value by computation. -/

namespace Sys2Proof.Machine.Proofs

open Laws

/-! ### Values in bytes -/

theorem leNat_leBytes_toNat {w : Nat} (n : Nat) (x : BitVec w) (h : w ≤ 8 * n) : leNat (leBytes n x.toNat) = x.toNat :=
  leNat_leBytes n _ (x.isLt.trans_le ((Nat.pow_le_pow_right (by decide) h).trans_eq (Nat.pow_mul 2 8 n)))

theorem ofNat_leNat_leBytes (n : Nat) {w : Nat} (x : BitVec w) (h : w ≤ 8 * n) : BitVec.ofNat w (leNat (leBytes n x.toNat)) = x := by
  rw [leNat_leBytes_toNat n x h, BitVec.ofNat_toNat, BitVec.setWidth_eq]

theorem ofNat_leNat_singleton (x : BitVec 8) : BitVec.ofNat 8 (leNat [x]) = x := by
  simp [leNat]

/-- A tag, an address and a parameter byte read back. -/
theorem tag_readBack (x : BitVec 16) : BitVec.ofNat 16 (leNat (leBytes 2 x.toNat)) = x := ofNat_leNat_leBytes 2 x (by decide)
theorem address_readBack (x : BitVec 64) : BitVec.ofNat 64 (leNat (leBytes 8 x.toNat)) = x := ofNat_leNat_leBytes 8 x (by decide)
theorem data_readBack (x : BitVec 32) : BitVec.ofNat 32 (leNat (leBytes 4 x.toNat)) = x := ofNat_leNat_leBytes 4 x (by decide)
theorem byte_readBack (x : BitVec 8) : BitVec.ofNat 8 (leNat (leBytes 1 x.toNat)) = x := ofNat_leNat_leBytes 1 x (by decide)

/-! ### Administrative commands -/

/-- R198: an encoded command is as long as its parameters allow. -/
theorem commandBytes_length (o : Nat) (tag : Tag) {params : List Byte} (h : params.length ≤ 60) :
    (commandBytes o tag params).length = 64 := by
  simp [commandBytes]
  omega

/-- The opcode of encoded bytes, and their tag. -/
theorem decodeCommand_unknown (op : BitVec 8) (tag : Tag) (h : commandOpcodes.contains op.toNat = false) :
    decodeCommand (commandBytes op.toNat tag []) = .unknownOpcode op tag := by
  have opcode : field (commandBytes op.toNat tag []) 0 1 = op.toNat := leNat_leBytes_toNat 1 op (by decide)
  have unnamed : ∀ o ∈ commandOpcodes, op.toNat ≠ o := fun o member same => by
    rw [same, List.contains_iff_mem.mpr member] at h
    exact absurd h (by decide)
  simp only [commandOpcodes, List.forall_mem_cons] at unnamed
  unfold decodeCommand
  dsimp only
  rw [opcode]
  split
  case h_18 =>
    refine congrArg₂ Instr.unknownOpcode ?_ (tag_readBack tag)
    rw [BitVec.ofNat_toNat, BitVec.setWidth_eq]
  all_goals simp_all

/-- The byte at a place of a record is one of the named ones (R198). -/
def isNamed (named : List (Nat × Nat)) (i : Nat) : Bool :=
  ((0, 1) :: (2, 2) :: named).any fun p => decide (p.1 ≤ i) && decide (i < p.1 + p.2)

theorem reservedSet_eq (bs : List Byte) (named : List (Nat × Nat)) :
    reservedSet bs named = (List.range 64).any fun i => !isNamed named i && (field bs i 1 != 0) := (rfl)

theorem field_one (bs : List Byte) (i : Nat) : field bs i 1 = ((bs[i]?).map BitVec.toNat).getD 0 := by
  unfold field
  cases h : bs.drop i with
  | nil => simp [leNat, List.drop_eq_nil_iff.mp h]
  | cons b l =>
    have here : bs[i]? = some b := by
      rw [← Nat.add_zero i, ← List.getElem?_drop, h]
      rfl
    simp [leNat, here]

/-- R198: where the named places and gaps of zeros cover the parameters, no reserved byte of an encoded command is set. -/
theorem reservedSet_commandBytes {o : Nat} {tag : Tag} {params : List Byte} {named : List (Nat × Nat)} (k : Nat) (gaps : List Nat)
    (long : params.length = k) (cover : ∀ j < k, isNamed named (j + 4) = true ∨ j ∈ gaps)
    (zero : ∀ j ∈ gaps, params[j]? = some 0) : reservedSet (commandBytes o tag params) named = false := by
  rw [reservedSet_eq, List.any_eq_false]
  intro i _ set
  rw [Bool.and_eq_true, Bool.not_eq_true', bne_iff_ne] at set
  obtain ⟨unnamed, nonzero⟩ := set
  rw [field_one] at nonzero
  match i with
  | 0 | 2 | 3 => exact absurd unnamed (by simp [isNamed])
  | 1 => exact nonzero rfl
  | j + 4 =>
    have place : (commandBytes o tag params)[j + 4]? = (params ++ List.replicate (60 - params.length) 0)[j]? := rfl
    rw [place, List.getElem?_append, List.getElem?_replicate] at nonzero
    split_ifs at nonzero with inside padding
    · rcases cover j (long ▸ inside) with covered | gap
      · rw [covered] at unnamed
        exact absurd unnamed (by decide)
      · rw [zero j gap] at nonzero
        exact nonzero rfl
    · exact nonzero rfl
    · exact nonzero rfl

section Decoded
variable (tag : Tag)

theorem decode_partitionOpen (p sl cl d r l : BitVec 8) (sb cb : BitVec 64) :
    decodeCommand (commandBytes 0x01 tag ([p, sl, cl, d, r, l] ++ List.replicate 6 0 ++ leBytes 8 sb.toNat ++ leBytes 8 cb.toNat))
      = .partitionOpen tag false p sl cl d r l sb cb := by
  refine Eq.trans (b := .partitionOpen (BitVec.ofNat 16 (leNat (leBytes 2 tag.toNat))) (reservedSet _ [(4, 6), (16, 16)]) (BitVec.ofNat 8 (leNat [p]))
    (BitVec.ofNat 8 (leNat [sl])) (BitVec.ofNat 8 (leNat [cl])) (BitVec.ofNat 8 (leNat [d])) (BitVec.ofNat 8 (leNat [r]))
    (BitVec.ofNat 8 (leNat [l])) (BitVec.ofNat 64 (leNat (leBytes 8 sb.toNat))) (BitVec.ofNat 64 (leNat (leBytes 8 cb.toNat)))) rfl ?_
  rw [reservedSet_commandBytes 28 [6, 7, 8, 9, 10, 11] rfl (by decide) (by simp)]
  simp only [tag_readBack, address_readBack, ofNat_leNat_singleton]

theorem decode_partitionQuiesce (p : BitVec 8) : decodeCommand (commandBytes 0x02 tag [p]) = .partitionQuiesce tag false p := by
  refine Eq.trans (b := .partitionQuiesce (BitVec.ofNat 16 (leNat (leBytes 2 tag.toNat))) (reservedSet _ [(4, 1)]) (BitVec.ofNat 8 (leNat [p]))) rfl ?_
  rw [reservedSet_commandBytes 1 [] rfl (by decide) (by simp)]
  simp only [tag_readBack, ofNat_leNat_singleton]

theorem decode_partitionResume (p : BitVec 8) : decodeCommand (commandBytes 0x03 tag [p]) = .partitionResume tag false p := by
  refine Eq.trans (b := .partitionResume (BitVec.ofNat 16 (leNat (leBytes 2 tag.toNat))) (reservedSet _ [(4, 1)]) (BitVec.ofNat 8 (leNat [p]))) rfl ?_
  rw [reservedSet_commandBytes 1 [] rfl (by decide) (by simp)]
  simp only [tag_readBack, ofNat_leNat_singleton]

theorem decode_partitionClose (p : BitVec 8) : decodeCommand (commandBytes 0x04 tag [p]) = .partitionClose tag false p := by
  refine Eq.trans (b := .partitionClose (BitVec.ofNat 16 (leNat (leBytes 2 tag.toNat))) (reservedSet _ [(4, 1)]) (BitVec.ofNat 8 (leNat [p]))) rfl ?_
  rw [reservedSet_commandBytes 1 [] rfl (by decide) (by simp)]
  simp only [tag_readBack, ofNat_leNat_singleton]

theorem decode_reportCounters (p c : BitVec 8) (a : BitVec 64) :
    decodeCommand (commandBytes 0x05 tag ([p, c, 0, 0] ++ leBytes 8 a.toNat))
      = .reportCounters tag false p c a := by
  refine Eq.trans (b := .reportCounters (BitVec.ofNat 16 (leNat (leBytes 2 tag.toNat))) (reservedSet _ [(4, 2), (8, 8)]) (BitVec.ofNat 8 (leNat [p]))
    (BitVec.ofNat 8 (leNat [c])) (BitVec.ofNat 64 (leNat (leBytes 8 a.toNat)))) rfl ?_
  rw [reservedSet_commandBytes 12 [2, 3] rfl (by decide) (by simp)]
  simp only [tag_readBack, address_readBack, ofNat_leNat_singleton]

theorem decode_dispositionSet (p c d : BitVec 8) :
    decodeCommand (commandBytes 0x06 tag [p, c, d])
      = .dispositionSet tag false p c d := by
  refine Eq.trans (b := .dispositionSet (BitVec.ofNat 16 (leNat (leBytes 2 tag.toNat))) (reservedSet _ [(4, 3)]) (BitVec.ofNat 8 (leNat [p]))
    (BitVec.ofNat 8 (leNat [c])) (BitVec.ofNat 8 (leNat [d]))) rfl ?_
  rw [reservedSet_commandBytes 3 [] rfl (by decide) (by simp)]
  simp only [tag_readBack, ofNat_leNat_singleton]

theorem decode_windowOpen (w o a : BitVec 8) (b l : BitVec 64) :
    decodeCommand (commandBytes 0x10 tag ([w, o, a, 0] ++ leBytes 8 b.toNat ++ leBytes 8 l.toNat))
      = .windowOpen tag false w o a b l := by
  refine Eq.trans (b := .windowOpen (BitVec.ofNat 16 (leNat (leBytes 2 tag.toNat))) (reservedSet _ [(4, 3), (8, 16)]) (BitVec.ofNat 8 (leNat [w])) (BitVec.ofNat
    8 (leNat [o])) (BitVec.ofNat 8 (leNat [a])) (BitVec.ofNat 64 (leNat (leBytes 8 b.toNat))) (BitVec.ofNat 64 (leNat (leBytes 8
    l.toNat)))) rfl ?_
  rw [reservedSet_commandBytes 20 [3] rfl (by decide) (by simp)]
  simp only [tag_readBack, address_readBack, ofNat_leNat_singleton]

theorem decode_windowLock (w : BitVec 8) : decodeCommand (commandBytes 0x11 tag [w]) = .windowLock tag false w := by
  refine Eq.trans (b := .windowLock (BitVec.ofNat 16 (leNat (leBytes 2 tag.toNat))) (reservedSet _ [(4, 1)]) (BitVec.ofNat 8 (leNat [w]))) rfl ?_
  rw [reservedSet_commandBytes 1 [] rfl (by decide) (by simp)]
  simp only [tag_readBack, ofNat_leNat_singleton]

theorem decode_windowClose (w : BitVec 8) : decodeCommand (commandBytes 0x12 tag [w]) = .windowClose tag false w := by
  refine Eq.trans (b := .windowClose (BitVec.ofNat 16 (leNat (leBytes 2 tag.toNat))) (reservedSet _ [(4, 1)]) (BitVec.ofNat 8 (leNat [w]))) rfl ?_
  rw [reservedSet_commandBytes 1 [] rfl (by decide) (by simp)]
  simp only [tag_readBack, ofNat_leNat_singleton]

theorem decode_fenceSet (f : BitVec 8) (b l : BitVec 64) :
    decodeCommand (commandBytes 0x18 tag ([f, 0, 0, 0] ++ leBytes 8 b.toNat ++ leBytes 8 l.toNat))
      = .fenceSet tag false f b l := by
  refine Eq.trans (b := .fenceSet (BitVec.ofNat 16 (leNat (leBytes 2 tag.toNat))) (reservedSet _ [(4, 1), (8, 16)]) (BitVec.ofNat 8 (leNat [f])) (BitVec.ofNat
    64 (leNat (leBytes 8 b.toNat))) (BitVec.ofNat 64 (leNat (leBytes 8 l.toNat)))) rfl ?_
  rw [reservedSet_commandBytes 20 [1, 2, 3] rfl (by decide) (by simp)]
  simp only [tag_readBack, address_readBack, ofNat_leNat_singleton]

theorem decode_fenceClear (f : BitVec 8) : decodeCommand (commandBytes 0x19 tag [f]) = .fenceClear tag false f := by
  refine Eq.trans (b := .fenceClear (BitVec.ofNat 16 (leNat (leBytes 2 tag.toNat))) (reservedSet _ [(4, 1)]) (BitVec.ofNat 8 (leNat [f]))) rfl ?_
  rw [reservedSet_commandBytes 1 [] rfl (by decide) (by simp)]
  simp only [tag_readBack, ofNat_leNat_singleton]

theorem decode_fenceLock : decodeCommand (commandBytes 0x1A tag []) = .fenceLock tag false := by
  refine Eq.trans (b := .fenceLock (BitVec.ofNat 16 (leNat (leBytes 2 tag.toNat))) (reservedSet _ [])) rfl ?_
  rw [reservedSet_commandBytes 0 [] rfl (by decide) (by simp)]
  simp only [tag_readBack]

theorem decode_poolSet (p r l : BitVec 8) : decodeCommand (commandBytes 0x20 tag [p, r, l]) = .poolSet tag false p r l := by
  refine Eq.trans (b := .poolSet (BitVec.ofNat 16 (leNat (leBytes 2 tag.toNat))) (reservedSet _ [(4, 3)]) (BitVec.ofNat 8 (leNat [p])) (BitVec.ofNat 8
    (leNat [r])) (BitVec.ofNat 8 (leNat [l]))) rfl ?_
  rw [reservedSet_commandBytes 3 [] rfl (by decide) (by simp)]
  simp only [tag_readBack, ofNat_leNat_singleton]

theorem decode_poolWatermark (w : BitVec 8) : decodeCommand (commandBytes 0x21 tag [w]) = .poolWatermark tag false w := by
  refine Eq.trans (b := .poolWatermark (BitVec.ofNat 16 (leNat (leBytes 2 tag.toNat))) (reservedSet _ [(4, 1)]) (BitVec.ofNat 8 (leNat [w]))) rfl ?_
  rw [reservedSet_commandBytes 1 [] rfl (by decide) (by simp)]
  simp only [tag_readBack, ofNat_leNat_singleton]

theorem decode_vectorSet (v e n x : BitVec 8) (a : BitVec 64) (d : BitVec 32) :
    decodeCommand (commandBytes 0x28 tag ([v, e, n, x] ++ leBytes 8 a.toNat ++ leBytes 4 d.toNat))
      = .vectorSet tag false v e n x a d := by
  refine Eq.trans (b := .vectorSet (BitVec.ofNat 16 (leNat (leBytes 2 tag.toNat))) (reservedSet _ [(4, 4), (8, 12)]) (BitVec.ofNat 8 (leNat [v])) (BitVec.ofNat
    8 (leNat [e])) (BitVec.ofNat 8 (leNat [n])) (BitVec.ofNat 8 (leNat [x])) (BitVec.ofNat 64 (leNat (leBytes 8 a.toNat)))
    (BitVec.ofNat 32 (leNat (leBytes 4 d.toNat)))) rfl ?_
  rw [reservedSet_commandBytes 16 [] rfl (by decide) (by simp)]
  simp only [tag_readBack, address_readBack, data_readBack, ofNat_leNat_singleton]

theorem decode_eventRingSet (k : BitVec 16) (b : BitVec 64) :
    decodeCommand (commandBytes 0x30 tag (leBytes 2 k.toNat ++ [0, 0] ++ leBytes 8 b.toNat))
      = .eventRingSet tag false k b := by
  refine Eq.trans (b := .eventRingSet (BitVec.ofNat 16 (leNat (leBytes 2 tag.toNat))) (reservedSet _ [(4, 2), (8, 8)]) (BitVec.ofNat 16 (leNat (leBytes 2
    k.toNat))) (BitVec.ofNat 64 (leNat (leBytes 8 b.toNat)))) rfl ?_
  rw [reservedSet_commandBytes 12 [2, 3] rfl (by decide) (by simp)]
  simp only [tag_readBack, address_readBack]

theorem decode_linkSet (k : BitVec 16) : decodeCommand (commandBytes 0x38 tag (leBytes 2 k.toNat)) = .linkSet tag false k := by
  refine Eq.trans (b := .linkSet (BitVec.ofNat 16 (leNat (leBytes 2 tag.toNat))) (reservedSet _ [(4, 2)]) (BitVec.ofNat 16 (leNat (leBytes 2
    k.toNat)))) rfl ?_
  rw [reservedSet_commandBytes 2 [] rfl (by decide) (by simp)]
  simp only [tag_readBack]

end Decoded

/-- R198: encoding and decoding of a command agree. -/
theorem command_readBack {c : Instr} {bs : List Byte} (h : encodeCommand c = some bs) (wf : c.wellFormed = true) :
    bs.length = 64 ∧ decodeCommand bs = c := by
  unfold encodeCommand at h
  split at h
  case h_18 op tag =>
    obtain rfl := Option.some.inj h
    refine ⟨commandBytes_length _ _ (by decide), decodeCommand_unknown op tag ?_⟩
    simpa [Instr.wellFormed] using wf
  case h_19 => exact absurd h (by simp)
  all_goals
    obtain rfl := Option.some.inj h
    refine ⟨commandBytes_length _ _ (by simp), ?_⟩
  case h_1 => exact decode_partitionOpen _ _ _ _ _ _ _ _ _
  case h_2 => exact decode_partitionQuiesce _ _
  case h_3 => exact decode_partitionResume _ _
  case h_4 => exact decode_partitionClose _ _
  case h_5 => exact decode_reportCounters _ _ _ _
  case h_6 => exact decode_dispositionSet _ _ _ _
  case h_7 => exact decode_windowOpen _ _ _ _ _ _
  case h_8 => exact decode_windowLock _ _
  case h_9 => exact decode_windowClose _ _
  case h_10 => exact decode_fenceSet _ _ _ _
  case h_11 => exact decode_fenceClear _ _
  case h_12 => exact decode_fenceLock _
  case h_13 => exact decode_poolSet _ _ _ _
  case h_14 => exact decode_poolWatermark _ _
  case h_15 => exact decode_vectorSet _ _ _ _ _ _ _
  case h_16 => exact decode_eventRingSet _ _ _
  case h_17 => exact decode_linkSet _ _

/-! ### Submission records -/

/-- R196: encoding and decoding of a submission record agree. -/
theorem subRecord_readBack (r : SubRecord) : r.encode.length = 64 ∧ SubRecord.decode r.encode = r := by
  refine ⟨by simp [SubRecord.encode], ?_⟩
  refine Eq.trans (b :=
    { op := BitVec.ofNat 8 (leNat (leBytes 1 r.op.toNat))
      flags := BitVec.ofNat 8 (leNat (leBytes 1 r.flags.toNat))
      tag := BitVec.ofNat 16 (leNat (leBytes 2 r.tag.toNat))
      length := BitVec.ofNat 32 (leNat (leBytes 4 r.length.toNat))
      hostAddr := BitVec.ofNat 64 (leNat (leBytes 8 r.hostAddr.toNat))
      primaryWindow := BitVec.ofNat 8 (leNat (leBytes 1 r.primaryWindow.toNat))
      secondaryWindow := BitVec.ofNat 8 (leNat (leBytes 1 r.secondaryWindow.toNat))
      reservedLow := BitVec.ofNat 16 (leNat (leBytes 2 r.reservedLow.toNat))
      primaryOffset := BitVec.ofNat 32 (leNat (leBytes 4 r.primaryOffset.toNat))
      secondaryOffset := BitVec.ofNat 32 (leNat (leBytes 4 r.secondaryOffset.toNat))
      pattern := BitVec.ofNat 64 (leNat (leBytes 8 r.pattern.toNat))
      reservedHigh := BitVec.ofNat 224 (leNat (leBytes 28 r.reservedHigh.toNat)) }) rfl ?_
  simp only [byte_readBack, tag_readBack, data_readBack, address_readBack, ofNat_leNat_leBytes 28 r.reservedHigh (by decide)]

/-! ### Event records -/

/-- A byte of a record, and a count of two bytes. -/
theorem leNat_byte {v : Nat} (h : v < 256) : leNat (leBytes 1 v) = v := leNat_leBytes 1 v h
theorem leNat_pair {v : Nat} (h : v < 65536) : leNat (leBytes 2 v) = v := leNat_leBytes 2 v h
theorem leNat_tag (x : Tag) : leNat (leBytes 2 x.toNat) = x.toNat := leNat_leBytes_toNat 2 x (by decide)

theorem passBit_eq (pass : Bool) : leNat (leBytes 1 (passBit pass)) = if pass = true then 128 else 0 := by
  cases pass <;> rfl

section EventFields
variable {kind partition tag cls detail cause count : Nat} {pass : Bool}

theorem eventFields_length : (eventFields kind partition tag cls detail cause count pass).length = 16 := rfl

/-- R200: the fields of an event record at their places. -/
theorem eventFields_fields (hk : kind < 256) (hp : partition < 256) (ht : tag < 65536) (hc : cls < 256) (hd : detail < 256)
    (hcause : cause < 256) (hcount : count < 65536) :
    let bytes := eventFields kind partition tag cls detail cause count pass
    field bytes 0 1 = kind ∧ field bytes 1 1 = partition ∧ field bytes 2 2 = tag ∧ field bytes 4 1 = cls ∧ field bytes 5 1 = detail
      ∧ field bytes 6 1 = cause ∧ field bytes 8 2 = count :=
  ⟨leNat_byte hk, leNat_byte hp, leNat_pair ht, leNat_byte hc, leNat_byte hd, leNat_byte hcause, leNat_pair hcount⟩

end EventFields

/-- R200: what every event record has. -/
theorem eventBytes_common (e : Event) (pass : Bool) :
    (e.bytes pass).length = 16 ∧ field (e.bytes pass) 7 1 = (if pass = true then 128 else 0) ∧ field (e.bytes pass) 10 6 = 0 := by
  cases e <;> exact ⟨rfl, passBit_eq pass, leNat_leBytes 6 0 (by decide)⟩

/-! ### Writes to NOTIFY and CONTROL -/

section Notify
variable (high selector : BitVec 8) (index : BitVec 16)

theorem low_of_append {m n : Nat} (x : BitVec m) (y : BitVec n) : (x ++ y).setWidth n = y := by
  refine BitVec.eq_of_getLsbD_eq fun i hi => ?_
  simp [BitVec.getLsbD_append, hi]

theorem middle_of_append {l m n : Nat} (x : BitVec l) (y : BitVec m) (z : BitVec n) : (x ++ y ++ z).extractLsb' n m = y := by
  refine BitVec.eq_of_getLsbD_eq fun i hi => ?_
  simp [BitVec.getLsbD_append, hi]

theorem notify_index : (high ++ selector ++ index : BitVec 32).setWidth 16 = index := low_of_append (high ++ selector) index

theorem notify_selector : (high ++ selector ++ index : BitVec 32).extractLsb' 16 8 = selector := middle_of_append high selector index

theorem decodeRegisterWrite_notify (x : BitVec 64) :
    decodeRegisterWrite 0x040 4 x = some (decodeNotify (x.setWidth 32))
      ∧ decodeRegisterWrite 0x040 8 x = some (decodeNotify (x.setWidth 32)) := ⟨rfl, rfl⟩

/-! R183, R188: the selector names the command. -/

theorem decodeNotify_sqTail (p : PNum) (h : selector.toNat = p.val) : decodeNotify (high ++ selector ++ index) = .notifySqTail p index := by
  unfold decodeNotify
  dsimp only
  rw [notify_index, notify_selector, h, asNum_val]

theorem decodeNotify_cqHead (p : PNum) (h : selector.toNat = p.val + 16) :
    decodeNotify (high ++ selector ++ index) = .notifyCqHead p index := by
  have beyond : asNum 16 (p.val + 16) = none := asNum_eq_none.mpr (Nat.le_add_left ..)
  unfold decodeNotify
  dsimp only
  rw [notify_index, notify_selector, h, beyond, Nat.add_sub_cancel, asNum_val]

section Other
variable {n : Nat} (h : selector.toNat = n)
include h

theorem decodeNotify_adminSqTail (code : n = 32) : decodeNotify (high ++ selector ++ index) = .notifyAdminSqTail index := by
  unfold decodeNotify
  dsimp only
  rw [notify_index, notify_selector, h, code] <;> rfl

theorem decodeNotify_adminCqHead (code : n = 33) : decodeNotify (high ++ selector ++ index) = .notifyAdminCqHead index := by
  unfold decodeNotify
  dsimp only
  rw [notify_index, notify_selector, h, code] <;> rfl

theorem decodeNotify_eventRingHead (code : n = 34) : decodeNotify (high ++ selector ++ index) = .notifyEventRingHead index := by
  unfold decodeNotify
  dsimp only
  rw [notify_index, notify_selector, h, code] <;> rfl

theorem decodeNotify_bad (code : 35 ≤ n) : decodeNotify (high ++ selector ++ index) = .notifyBadSelector selector index := by
  have noTail : asNum 16 n = none := asNum_eq_none.mpr (by omega)
  have noHead : asNum 16 (n - 16) = none := asNum_eq_none.mpr (by omega)
  unfold decodeNotify
  dsimp only
  rw [notify_index, notify_selector, h, noTail, noHead]
  dsimp only
  split
  · omega
  · omega
  · omega
  · rfl

end Other

end Notify

theorem decodeRegisterWrite_control (v : BitVec 64) :
    decodeRegisterWrite 0x004 4 v = some (if v.getLsbD 1 then .functionReset (v.getLsbD 0) else if v.getLsbD 0 then .enableAttempt else .stop) := by
  have decoded : decodeRegisterWrite 0x004 4 v = some (decodeControl (v.setWidth 32)) := rfl
  rw [decoded, decodeControl, BitVec.getLsbD_setWidth, BitVec.getLsbD_setWidth]
  rfl

/-- Settles O53: each record's fields are the bytes of its values at their places, and the selector or the two bits of a write name
its command. -/
theorem recordsDecode : Obligations.RecordsDecode := by
  refine ⟨fun c bs h wf => command_readBack h wf, subRecord_readBack, fun e pass => ?_, fun high low8 index upper => ?_,
    fun v enable => ⟨fun reset same => ?_, fun keep on => ?_, fun keep off => ?_⟩⟩
  · obtain ⟨long, marker, unused⟩ := eventBytes_common e pass
    refine ⟨long, marker, unused, ?_, ?_, ?_, fun k small => ⟨?_, ?_, ?_⟩⟩
    · rintro p tag cls detail rfl small
      have codes := eventFields_fields (pass := pass) (kind := 1) (cls := cls.code) (by decide) (p.isLt.trans (by decide)) tag.isLt
        (by cases cls <;> decide) small (cause := 0) (count := 0) (by decide) (by decide)
      cases cls <;> exact codes
    · rintro p cause rfl
      have codes := eventFields_fields (pass := pass) (kind := 2) (cause := cause.code) (by decide) (p.isLt.trans (by decide)) (tag := 0)
        (cls := 0) (detail := 0) (count := 0) (by decide) (by decide) (by decide) (by cases cause <;> decide) (by decide)
      cases cause <;> exact codes
    · rintro cause rfl
      have codes := eventFields_fields (pass := pass) (kind := 3) (cause := cause.code) (by decide) (partition := 0) (tag := 0)
        (cls := 0) (detail := 0) (count := 0) (by decide) (by decide) (by decide) (by decide) (by cases cause <;> decide) (by decide)
      cases cause <;> exact codes
    · rintro rfl
      exact eventFields_fields (by decide) (by decide) (by decide) (by decide) (by decide) (by decide) small
    · rintro rfl
      exact eventFields_fields (by decide) (by decide) (by decide) (by decide) (by decide) (by decide) small
    · rintro rfl
      exact eventFields_fields (by decide) (by decide) (by decide) (by decide) (by decide) (by decide) small
  · intro v n
    have low : (upper ++ v : BitVec 64).setWidth 32 = v := low_of_append upper v
    have written := decodeRegisterWrite_notify (upper ++ v)
    rw [low] at written
    exact ⟨written.1, written.2, decodeNotify_sqTail high low8 index, decodeNotify_cqHead high low8 index,
      decodeNotify_adminSqTail high low8 index rfl, decodeNotify_adminCqHead high low8 index rfl,
      decodeNotify_eventRingHead high low8 index rfl, decodeNotify_bad high low8 index rfl⟩
  · rw [decodeRegisterWrite_control, reset, same]
    rfl
  · rw [decodeRegisterWrite_control, keep, on]
    rfl
  · rw [decodeRegisterWrite_control, keep, off]
    rfl

end Sys2Proof.Machine.Proofs
end

section
/-! The DIGEST register (R99, R87): O54. A shift is linear, so what bytes contribute does not depend on what the register held. -/

namespace Sys2Proof.Machine.Proofs

open Laws

theorem crcShift_xor (a b : BitVec 32) : crcShift (a ^^^ b) = crcShift a ^^^ crcShift b := by
  have shift : (a ^^^ b) >>> 1 = a >>> 1 ^^^ b >>> 1 := BitVec.ushiftRight_xor_distrib a b 1
  unfold crcShift
  rw [BitVec.getLsbD_xor, shift]
  cases a.getLsbD 0 <;> cases b.getLsbD 0
  · rfl
  · exact BitVec.xor_assoc ..
  · change (a >>> 1 ^^^ b >>> 1) ^^^ crcPoly = (a >>> 1 ^^^ crcPoly) ^^^ b >>> 1
    ac_rfl
  · have cancels : (a >>> 1 ^^^ crcPoly) ^^^ (b >>> 1 ^^^ crcPoly) = (a >>> 1 ^^^ b >>> 1) ^^^ (crcPoly ^^^ crcPoly) := by ac_rfl
    refine Eq.trans ?_ cancels.symm
    rw [BitVec.xor_self, BitVec.xor_zero]
    rfl

/-- R99: a byte enters the exclusive or of two registers as zero enters the one and it enters the other. -/
theorem crcByte_xor (a c : BitVec 32) (b : Byte) : crcByte (a ^^^ c) b = crcByte a 0 ^^^ crcByte c b := by
  have input : a ^^^ c ^^^ b.setWidth 32 = (a ^^^ (0 : Byte).setWidth 32) ^^^ (c ^^^ b.setWidth 32) := by
    simp [BitVec.xor_assoc]
  unfold crcByte
  rw [input]
  simp only [crcShift_xor]

theorem crcBytes_xor (a c : BitVec 32) (bs : List Byte) :
    crcBytes (a ^^^ c) bs = crcBytes a (List.replicate bs.length 0) ^^^ crcBytes c bs := by
  induction bs generalizing a c with
  | nil => rfl
  | cons b bs ih =>
    calc crcBytes (crcByte (a ^^^ c) b) bs
        _ = crcBytes (crcByte a 0 ^^^ crcByte c b) bs := by rw [crcByte_xor]
        _ = _ := ih ..

theorem crcBytes_append (r : BitVec 32) (xs ys : List Byte) : crcBytes r (xs ++ ys) = crcBytes (crcBytes r xs) ys :=
  List.foldl_append

/-- R99: the final step undone. -/
theorem crcFinal_undone (r : BitVec 32) : crcFinal r ^^^ 0xFFFFFFFF#32 = r := by
  have ones : 0xFFFFFFFF#32 = BitVec.allOnes 32 := rfl
  rw [crcFinal, ones, BitVec.xor_assoc, BitVec.xor_self, BitVec.xor_zero]

/-- Settles O54: a chunk's partial value is its bytes entered into 0, which a linear register may combine afterwards. -/
theorem digestIsCrc : Obligations.DigestIsCrc := by
  refine ⟨fun r bs => ?_, fun r xs ys => ?_, ?_⟩
  · refine Eq.trans (crcBytes_xor r 0 bs).symm (congrArg (crcBytes · bs) BitVec.xor_zero)
  · rw [crcFinal_undone, ← crcBytes_append]
  · simp [crcBytes, crcByte, crcShift, crcPoly, crcFinal]

end Sys2Proof.Machine.Proofs
end

section
/-! The vectors (R131 to R139) and the records that the part writes (R97, R123, R127, R151, R156): O51, O52, O17 and O37. -/

namespace Sys2Proof.Machine.Proofs

open Laws

/-! ### Vectors -/

section Vectors
variable {v : MsgVector} {urgent : Bool}

theorem onRecord_disabled (h : v.enable = false) : v.onRecord urgent = (v, false) := by simp [MsgVector.onRecord, h]
theorem onConsume_disabled (h : v.enable = false) : v.onConsume = (v, false) := by simp [MsgVector.onConsume, h]
theorem onExpiry_disabled (h : v.enable = false) : v.onExpiry = (v, false) := by simp [MsgVector.onExpiry, h]

/-- R132: the timer of a GATHERING vector, run down. -/
theorem onExpiry_runDown (h : v.enable = true) (gathering : v.st = .gathering) (down : v.timer = some 0) :
    v.onExpiry = (v.sent, true) := by simp [MsgVector.onExpiry, h, gathering, down]

theorem onRecord_quiet (h : v.enable = true) (quiet : v.st = .quiet) :
    v.onRecord urgent = if urgent = true ∨ v.threshold = 1 then (v.sent, true)
      else ({ v with st := .gathering, u := 1, timer := v.startTimer }, false) := by
  simp [MsgVector.onRecord, h, quiet]

theorem onRecord_gathering (h : v.enable = true) (gathering : v.st = .gathering) :
    v.onRecord urgent = if urgent = true ∨ v.threshold ≤ v.u + 1 then (v.sent, true) else ({ v with u := v.u + 1 }, false) := by
  simp [MsgVector.onRecord, h, gathering]

theorem onRecord_announced (h : v.enable = true) (announced : v.st = .announced) :
    v.onRecord urgent = ({ v with u := v.u + 1, urgent := v.urgent || urgent }, false) := by
  simp [MsgVector.onRecord, h, announced]

theorem onConsume_waiting (h : v.enable = true) (waiting : v.st = .quiet ∨ v.st = .gathering) : v.onConsume = (v, false) := by
  rcases waiting with w | w <;> simp [MsgVector.onConsume, h, w]

theorem onConsume_announced (h : v.enable = true) (announced : v.st = .announced) :
    v.onConsume = if v.u = 0 then ({ v with st := .quiet }, false)
      else if v.urgent = true ∨ v.threshold ≤ v.u then (v.sent, true)
      else ({ v with st := .gathering, timer := v.startTimer }, false) := by
  simp [MsgVector.onConsume, h, announced]

/-! A reaction leaves the fields of the message. -/

theorem onRecord_message (v : MsgVector) (urgent : Bool) :
    (v.onRecord urgent).1.address = v.address ∧ (v.onRecord urgent).1.data = v.data := by
  unfold MsgVector.onRecord
  split
  · exact ⟨rfl, rfl⟩
  · split
    · split_ifs <;> exact ⟨rfl, rfl⟩
    · split_ifs <;> exact ⟨rfl, rfl⟩
    · exact ⟨rfl, rfl⟩

theorem onConsume_message (v : MsgVector) : v.onConsume.1.address = v.address ∧ v.onConsume.1.data = v.data := by
  unfold MsgVector.onConsume
  split
  · exact ⟨rfl, rfl⟩
  · split
    · exact ⟨rfl, rfl⟩
    · exact ⟨rfl, rfl⟩
    · split_ifs <;> exact ⟨rfl, rfl⟩

end Vectors

/-- R136: four bytes, the least significant first. -/
theorem leBytes_four (x : BitVec 32) :
    leBytes 4 x.toNat = [x.setWidth 8, (x >>> 8).setWidth 8, (x >>> 16).setWidth 8, (x >>> 24).setWidth 8] := by
  have byte (n k : Nat) (h : n = x.toNat / 2 ^ k) : BitVec.ofNat 8 n = (x >>> k).setWidth 8 := by
    refine BitVec.eq_of_toNat_eq ?_
    simp [h, Nat.shiftRight_eq_div_pow]
  refine congrArg₂ List.cons ?_ (congrArg₂ List.cons (byte _ 8 rfl) (congrArg₂ List.cons (byte _ 16 ?_) (congrArg₂ List.cons (byte _ 24 ?_)
    rfl)))
  · exact byte _ 0 (Nat.div_one _).symm
  · omega
  · omega

/-- R128, R136: a reaction that keeps the message's fields changes its vector alone, and a send adds its message. -/
theorem react_answered (s : State) (n : VNum) (r : Reaction) (address : r.1.address = (s.vector n).address)
    (data : r.1.data = (s.vector n).data) :
    s.react n r = if r.2 = true then (s.withVector n fun _ => r.1).withLink fun l =>
        { l with store := l.store ++ [{ kind := .message n, addr := (s.vector n).address, bytes := leBytes 4 (s.vector n).data.toNat }] }
      else s.withVector n fun _ => r.1 := by
  unfold State.react
  dsimp only
  split
  · rw [MsgVector.message, address, data]
    rfl
  · rfl

/-- Settles O52: the table of R131 state by state; a reaction keeps the vector's address and data. -/
theorem vectorRules : Obligations.VectorRules := by
  constructor
  · intro s n urgent v message answered
    have bytes := leBytes_four v.data
    obtain ⟨recordAddress, recordData⟩ := onRecord_message v urgent
    obtain ⟨consumeAddress, consumeData⟩ := onConsume_message v
    refine ⟨(react_answered s n _ recordAddress recordData).trans ?_, (react_answered s n _ consumeAddress consumeData).trans ?_⟩
    · rw [bytes]
    · rw [bytes]
  · intro v urgent sent started
    exact ⟨fun off => ⟨onRecord_disabled off, onConsume_disabled off, onExpiry_disabled off⟩, fun on =>
      ⟨onRecord_quiet on, onRecord_gathering on, onRecord_announced on, onConsume_waiting on, onConsume_announced on⟩⟩

/-- Settles O51: what is left of the time passes, and the timer has then run down. -/
theorem holdoffExpires : Obligations.HoldoffExpires := by
  intro s n v
  refine ⟨fun frozen => congrArg Host.Outcome.next ?_, fun left live timer gathering enabled => congrArg Host.Outcome.next ?_⟩
  · split
    next left notHalted timer =>
      rcases frozen with halted | stopped
      · rw [State.halted, halted] at notHalted
        exact absurd notHalted (by decide)
      · exact absurd (timer.symm.trans stopped) (by simp)
    next => rfl
  · have notHalted : s.halted = false := decide_eq_false live
    have elapsed : (s.elapse left).vector n = v.elapse left := (elapse_vector s left n).trans (if_neg live)
    have expires : (v.elapse left).onExpiry = ((v.elapse left).sent, true) :=
      onExpiry_runDown enabled gathering (by simp [MsgVector.elapse, timer])
    have entry : ((s.elapse left).withVector n fun v => { v with st := .announced, u := 0, urgent := false, timer := none })
        = (s.elapse left).withVector n fun _ => (v.elapse left).sent := by
      rw [← elapsed]
      rfl
    rw [notHalted, timer, entry]
    dsimp only
    rw [elapsed, expires, react_send]
    rfl

/-! ### Admin completions -/

theorem adminStatus_code (a : AdminStatus) : a.code < 256 := by cases a <;> decide

/-- Settles O17: the write, index, marker and reservation are those of the definition; the fields are the record's bytes. -/
theorem adminCompletionWritten : Obligations.AdminCompletionWritten := by
  intro s opcode tag status detail i bytes
  refine ⟨rfl, rfl, leNat_tag tag, leNat_byte, ?_, leNat_byte, leNat_pair (by decide), passBit_eq _, leNat_leBytes 8 0 (by decide)⟩
  refine (leNat_byte (adminStatus_code status)).trans ?_
  cases status <;> rfl

/-! ### Group completions -/

theorem countUp_eq (c : BitVec 32) : countUp c = if c ≠ BitVec.allOnes 32 then c + 1 else c := by
  unfold countUp
  rw [ite_not]

theorem errorClass_isSome (st : Status) : st.errorClass.isSome = decide (st ≠ .ok ∧ st ≠ .aborted) := by
  cases st <;> decide

theorem status_code (st : Status) : st.code < 256 := by cases st <;> decide

theorem ite_and_split {α : Type} (p q : Prop) [Decidable p] [Decidable q] (x y : α) :
    (if p then if q then x else y else y) = if p ∧ q then x else y := by
  by_cases hp : p <;> simp [hp]

/-- R49, R42: what a completion counts of its partition. -/
theorem count_unreserve (y : Partition) (st : Status) (n : Nat) :
    (y.count st n).unreserve = { y with
      groupsOk := if st = .ok ∧ y.faultCause ≠ some .cqIndex ∧ y.groupsOk ≠ BitVec.allOnes 32 then y.groupsOk + 1 else y.groupsOk
      groupsFailed := if (st ≠ .ok ∨ y.faultCause = some .cqIndex) ∧ y.groupsFailed ≠ BitVec.allOnes 32
        then y.groupsFailed + 1 else y.groupsFailed
      bytesMoved := y.bytesMoved + BitVec.ofNat 64 n, cqReserved := y.cqReserved - 1 } := by
  unfold Partition.count Partition.unreserve Partition.discards
  by_cases ok : st = .ok <;> by_cases discards : y.faultCause = some .cqIndex <;> simp [ok, discards, countUp_eq]

section Completion
variable {tag : Tag} {index count done : Nat} {v : Verdict} {result : BitVec 32} {pass : Bool}

theorem completion_count (h : count ≤ 16) :
    leNat (leBytes 1 (count % 32 + passBit pass)) = count + if pass = true then 128 else 0 := by
  have marker : passBit pass = if pass = true then 128 else 0 := rfl
  have small : count % 32 + passBit pass < 256 := by
    rw [marker]
    split_ifs <;> omega
  rw [leNat_byte small, marker, Nat.mod_eq_of_lt (by omega)]

theorem completion_failed (h : v.failedMember < 16) : leNat (leBytes 1 (v.failedMember % 16)) = v.failedMember := by
  rw [Nat.mod_eq_of_lt h, leNat_byte (by omega)]

end Completion

theorem advanceCq_eq {s : State} {p : PNum} {tail : Nat} (h : ringNext (s.part p).cqTail (s.part p).cqSize = tail) :
    s.withPart p Partition.advanceCq
      = s.withPart p fun y => { y with cqTail := tail, cqPass := if tail = 0 then !y.cqPass else y.cqPass } := by
  subst h
  exact withPart_congr rfl

/-- Settles O37: R97 with the partition's fault cause deciding whether the record is written; the fields are the record's bytes. -/
theorem groupAnswered : Obligations.GroupAnswered := by
  intro s i v x p y posted record tail
  have entry : (s.withSlot i fun x => { x with
        st := .posting, verdict := some v, errorDue := v.status.errorClass.isSome, posted := y.discards }).withPart p
          (fun y => (y.count v.status x.bytesDone).unreserve) = posted := by
    rw [errorClass_isSome]
    refine congrArg (State.withPart _ p) (funext fun y => ?_)
    exact count_unreserve y v.status x.bytesDone
  refine ⟨fun discards => ?_, fun writes => ?_, rfl, leNat_tag _, leNat_pair, ?_, leNat_byte, completion_failed, completion_count,
    fun small => leNat_leBytes 4 _ small, leNat_leBytes_toNat 4 _ (by decide)⟩
  · unfold State.postGroup
    dsimp only
    rw [entry]
    exact if_pos (decide_eq_true discards)
  · unfold State.postGroup
    dsimp only
    rw [entry]
    refine (if_neg (mt of_decide_eq_true writes)).trans (congrArg (State.newRecord · (partVector p) x.notifyNow) ?_)
    refine advanceCq_eq (Eq.trans (congrArg (fun z : Partition => ringNext z.cqTail z.cqSize) (withPart_part_same ..)) ?_)
    rfl
  · refine (leNat_byte (status_code v.status)).trans ?_
    cases v.status <;> rfl

end Sys2Proof.Machine.Proofs
end

section
/-! The administrative channel and its partition commands (R34 to R38, R50, R163, R164): O16, O18, O19, O20, O21 and O23. -/

namespace Sys2Proof.Machine.Proofs

open Laws

/-! ### A command on the channel -/

section Command
variable {s : State} {n : TNum} {o : Nat} {tag : Tag}

/-- R164: with its first test passed and the reads of its tables good, a command goes on to its effect. -/
theorem execute_freed {reads : State → Option HaltCause} (effect : State → Effect)
    (good : reads (s.withTag n fun _ => .free) = none) :
    (s.withTag n fun _ => .free).execute o tag true reads effect
      = State.conclude (s.taken n).sharedFree o tag (effect (s.taken n)) :=
  execute_valid _ o tag reads effect good

theorem executePart_freed {x : BitVec 8} {p : PNum} {reads : State → PNum → Option HaltCause} (effect : State → PNum → Effect)
    (hx : x.toNat = p.val) (good : reads (s.withTag n fun _ => .free) p = none) :
    (s.withTag n fun _ => .free).executePart o tag true x reads effect
      = State.conclude (s.taken n).sharedFree o tag (effect (s.taken n) p) := by
  rw [State.executePart, hx, asNum_val]
  exact execute_freed (fun s => effect s p) good

/-- A command on a partition whose first test fails. -/
theorem executePart_invalid {x : BitVec 8} {reads : State → PNum → Option HaltCause} {effect : State → PNum → Effect} :
    s.executePart o tag false x reads effect = s.badParam o tag := by
  unfold State.executePart
  split
  · rfl
  · exact execute_invalid ..

/-- A partition out of range or a parameter: BAD_PARAM either way. -/
theorem executePart_refused {x : BitVec 8} {valid : Bool} {reads : State → PNum → Option HaltCause} {effect : State → PNum → Effect}
    (h : 16 ≤ x.toNat ∨ valid = false) : s.executePart o tag valid x reads effect = s.badParam o tag := by
  rcases h with out | bad
  · exact executePart_outOfRange out
  · rw [bad, executePart_invalid]

theorem executeWindow_invalid {x : BitVec 8} {effect : State → WNum → Effect} :
    s.executeWindow o tag true x effect = s.badParam o tag := by
  unfold State.executeWindow
  split
  · rfl
  · exact execute_invalid ..

theorem executeFence_invalid {x : BitVec 8} {effect : State → FNum → Effect} :
    s.executeFence o tag false x effect = s.badParam o tag := by
  unfold State.executeFence
  split
  · rfl
  · exact execute_invalid ..

/-- R165, R117: a command that takes effect without inner events, the watermark before its completion. -/
theorem conclude_reevaluated (u : State) (before : Nat) (outsideHalted : u.halted = false) :
    State.conclude before o tag (u.accept []) = (u.reevaluate before).adminComplete o tag .ok 0 := by
  have kept : (u.reevaluate before).halted = false := (halted_of_outer (outer_reevaluate ..)).trans outsideHalted
  have concluded : State.conclude before o tag (u.accept [])
      = if (u.reevaluate before).halted then u.reevaluate before else (u.reevaluate before).adminComplete o tag .ok 0 := by
    unfold State.conclude State.accept
    dsimp only
    rw [settle_nil]
  rw [concluded, kept]
  rfl

/-- A command whose effect is complete, with its answer. -/
theorem concluded_done {run : Host.Outcome State Fault Refusal} {before : Nat} {e : Effect} {t : State} {a : AdminStatus} {d : Nat}
    (concluded : run = .next (State.conclude before o tag e)) (effect : e = (t, [], .done a d)) (outsideHalted : t.halted = false)
    (share : t.sharedFree = before) : run = .next (t.adminComplete o tag a d) := by
  rw [concluded, effect, conclude_done t before o tag a d outsideHalted share]

theorem reevaluate_changed {u : State} {before : Nat} (outsideHalted : u.halted = false) (changed : u.sharedFree ≠ before) :
    u.reevaluate before = u.evalWatermark := by
  simp [State.reevaluate, outsideHalted, changed]

end Command

/-! ### Command reads -/

theorem mayReadCommand_iff (s : State) : s.mayReadCommand = true ↔
    s.device.st = .running ∧ s.admin.faulted = false ∧ s.admin.readOutstanding = false ∧ s.admin.sqHead ≠ s.admin.sqTail
      ∧ s.admin.reserved + ringSpan s.poster.index s.admin.cqHead s.admin.cqSize + 1 < s.admin.cqSize := by
  simp only [State.mayReadCommand, State.running, Bool.and_eq_true, decide_eq_true_iff, Bool.not_eq_true', and_assoc]
  rfl

/-- Settles O16: the five conditions of R163 decide; the read is one request of 64 bytes. -/
theorem adminReadIssued : Obligations.AdminReadIssued := by
  intro s a may
  refine ⟨fun h (aligned : s.admin.sqBase.toNat % 64 = 0) => congrArg Host.Outcome.next ?_, fun h => congrArg Host.Outcome.next (if_neg (mt (mayReadCommand_iff s).mp h))⟩
  have address : s.admin.commandAddr.toNat % 64 = 0 := by
    rw [Admin.commandAddr, BitVec.toNat_add, BitVec.toNat_ofNat]
    omega
  rw [if_pos ((mayReadCommand_iff s).mpr h), State.askRead, readRequests_record _ _ address]
  rfl

/-- R198: what 64 bytes spell is a command of the ring. -/
theorem ringCommand_decodeCommand (bs : List Byte) : ringCommand (decodeCommand bs) = true := by
  unfold decodeCommand
  dsimp only
  split <;> rfl

/-- R172: in RUNNING a command read of a faulted channel is discarded. -/
theorem discardCommandRead_running {s : State} (running : s.device.st = .running) :
    s.discardCommandRead = s.withAdmin fun a => { a with readOutstanding := false } :=
  endStop_of_not_stopping _ (running_not_stopping _ running)

/-- Settles O18: after a channel fault no command read is live; before one, a reserved byte fails every command's first test. -/
theorem commandsTurnedAway : Obligations.CommandsTurnedAway := by
  constructor
  · intro s n command onLink running faulted spelled
    obtain ⟨bs, rfl⟩ := spelled
    have dead : s.commandLive = false := by simp [State.commandLive, faulted]
    have freed : (s.withTag n fun _ => .free).device.st = .running := running
    rw [exec_ringCommand (ringCommand_decodeCommand bs), returnCommand_dead s n _ onLink dead, discardCommandRead_running freed]
  · intro s n tag a b c d e f h u v z ready bad
    have refused (run : State → State) (o : Nat) (h : run (s.withTag n fun _ => .free) = (s.withTag n fun _ => .free).badParam o tag) :
        s.returnCommand run = .next (bad o) := (returnCommand_ready ready run).trans (congrArg Host.Outcome.next h)
    have dispositions : (s.withTag n fun _ => .free).runDispositionSet tag true a b c
        = (s.withTag n fun _ => .free).badParam 0x06 tag := by
      unfold State.runDispositionSet
      split
      · exact executePart_invalid
      · rfl
    have windowOpen : (s.withTag n fun _ => .free).runWindowOpen tag true a b c u v
        = (s.withTag n fun _ => .free).badParam 0x10 tag := by
      unfold State.runWindowOpen
      split
      · exact executePart_invalid
      · rfl
    have vectors : (s.withTag n fun _ => .free).runVectorSet tag true a b c d u z
        = (s.withTag n fun _ => .free).badParam 0x28 tag := by
      unfold State.runVectorSet
      split
      · rfl
      · exact execute_invalid ..
    exact ⟨refused _ _ executePart_invalid, refused _ _ executePart_invalid, refused _ _ executePart_invalid,
      refused _ _ executePart_invalid, refused _ _ executePart_invalid, refused _ _ dispositions, refused _ _ windowOpen,
      refused _ _ executeWindow_invalid, refused _ _ executeWindow_invalid, refused _ _ executeFence_invalid,
      refused _ _ executeFence_invalid, refused _ _ (execute_invalid ..), refused _ _ executePart_invalid,
      refused _ _ (execute_invalid ..), refused _ _ vectors, refused _ _ (execute_invalid ..), refused _ _ (execute_invalid ..),
      returnCommand_ready ready _⟩

/-! ### PARTITION_OPEN -/

section Open
variable {s : State} {n : TNum} {tag : Tag} {q sl cl d r l : BitVec 8} {sb cb : HostAddr} {p : PNum}

theorem openParamsOk_iff : openParamsOk sl.toNat cl.toNat d.toNat r.toNat l.toNat sb cb = true ↔
    4 ≤ sl.toNat ∧ sl.toNat ≤ 12 ∧ 4 ≤ cl.toNat ∧ cl.toNat ≤ 12 ∧ sb.toNat % 4096 = 0 ∧ cb.toNat % 4096 = 0 ∧ 1 ≤ d.toNat
      ∧ d.toNat ≤ 16 ∧ r.toNat ≤ 96 ∧ 1 ≤ l.toNat ∧ l.toNat ≤ 128 ∧ r.toNat ≤ l.toNat := by
  simp only [openParamsOk, Bool.and_eq_true, decide_eq_true_iff, and_assoc]
  rfl

theorem exec_partitionOpen_illegal (ready : CommandReady s n)
    (illegal : 16 ≤ q.toNat ∨ openParamsOk sl.toNat cl.toNat d.toNat r.toNat l.toNat sb cb = false) :
    exec (.partitionOpen tag false q sl cl d r l sb cb) s = .next ((s.taken n).adminComplete 0x01 tag .badParam 0) :=
  (returnCommand_ready ready _).trans (congrArg Host.Outcome.next (executePart_refused (illegal.imp_right fun bad => by rw [bad]; rfl)))

theorem exec_partitionOpen_legal (ready : CommandReady s n) (hq : q.toNat = p.val)
    (legal : openParamsOk sl.toNat cl.toNat d.toNat r.toNat l.toNat sb cb = true) :
    exec (.partitionOpen tag false q sl cl d r l sb cb) s
      = .next (State.conclude (s.taken n).sharedFree 0x01 tag
          ((s.taken n).openPartition p sl.toNat cl.toNat d.toNat r.toNat l.toNat sb cb)) := by
  obtain ⟨-, -, slots, windows, parts⟩ := id ready
  refine (returnCommand_ready ready _).trans (congrArg Host.Outcome.next ?_)
  rw [State.runPartitionOpen, legal]
  exact executePart_freed (fun s p => s.openPartition p sl.toNat cl.toNat d.toNat r.toNat l.toNat sb cb) hq
    (openReads_good (s := s.withTag n fun _ => .free) slots windows parts p r.toNat)

/-- The sum of the reserves over the partitions not CLOSED, where `p` is CLOSED. -/
theorem otherReserves_closed (closed : (s.part p).st = .closed) :
    s.otherReserves p = total fun k : PNum => if (s.part k).st = .closed then 0 else (s.part k).reserve := by
  refine congrArg total (funext fun k => ?_)
  by_cases same : k = p
  · simp [same, closed]
  · by_cases h : (s.part k).st = .closed <;> simp [same, h, Partition.isOpen]

/-- R105: a partition opened with a reserve, of which it holds nothing, takes that much from shared free. -/
theorem sharedFree_opened {y : Partition} (closed : (s.part p).st = .closed) (opened : y.st = .opened) (held : y.held = 0) :
    (s.withPart p fun _ => y).sharedFree = s.sharedFree - y.reserve := by
  have before : (s.part p).deficit = 0 := by simp [Partition.deficit, Partition.isOpen, closed]
  have after : y.deficit = y.reserve := by simp [Partition.deficit, Partition.isOpen, opened, held]
  have moved := deficits_update s p (fun _ => y)
  rw [before, after, Nat.add_zero] at moved
  rw [State.sharedFree, State.sharedFree, moved, Nat.sub_sub]
  rfl

/-- R119: shared free is looked at again where the reserve taken from it is not 0. -/
theorem conclude_opened {u : State} {before o : Nat} (live : u.halted = false) (share : u.sharedFree = before - r.toNat)
    (covered : r.toNat ≤ before) : State.conclude before o tag (u.accept [])
      = (if r = 0 then u else u.evalWatermark).adminComplete o tag .ok 0 := by
  rw [conclude_reevaluated u _ live]
  split
  next zero => rw [reevaluate_same _ _ (share.trans (by rw [zero]; rfl))]
  next positive =>
    have : r.toNat ≠ 0 := fun e => positive (BitVec.eq_of_toNat_eq e)
    rw [reevaluate_changed live (by omega)]

end Open

/-- Settles O19: the first test of R34 and the partition's range, then its state, shared free and the sum of the reserves; the new
share moves shared free where the reserve is not 0. -/
theorem partitionOpened : Obligations.PartitionOpened := by
  intro s n tag q sl cl d r l sb cb ready legal run
  have outsideHalted := taken_not_halted ready
  have share : (s.taken n).sharedFree = s.sharedFree := rfl
  refine ⟨fun illegal => exec_partitionOpen_illegal ready ?_, fun p hq legal => ?_⟩
  · by_cases hq : q.toNat < 16
    · exact .inr (Bool.eq_false_iff.mpr fun ok => illegal ⟨hq, openParamsOk_iff.mp ok⟩)
    · exact .inl (Nat.le_of_not_lt hq)
  · intro sum refused opened
    have concluded : run = _ := exec_partitionOpen_legal ready hq (openParamsOk_iff.mpr legal.2)
    have refuse (status : AdminStatus)
        (h : (s.taken n).openPartition p sl.toNat cl.toNat d.toNat r.toNat l.toNat sb cb = (s.taken n).refuse status) :
        run = .next (refused status) := by
      rw [concluded, h, conclude_refuse _ _ _ _ _ outsideHalted rfl]
    have reserves (closed : (s.part p).st = .closed) : (s.taken n).otherReserves p = sum := otherReserves_closed closed
    refine ⟨fun open' => refuse _ (if_pos open'), fun closed short => refuse _ ?_, fun closed covered above => refuse _ ?_,
      fun closed covered below => ?_⟩
    · exact (if_neg (not_not.mpr closed)).trans (if_pos short)
    · exact (if_neg (not_not.mpr closed)).trans ((if_neg (Nat.not_lt.mpr covered)).trans (if_pos ((reserves closed).symm ▸ above)))
    · have effect : (s.taken n).openPartition p sl.toNat cl.toNat d.toNat r.toNat l.toNat sb cb = opened.accept [] :=
        (if_neg (not_not.mpr closed)).trans ((if_neg (Nat.not_lt.mpr covered)).trans
          (if_neg ((reserves closed).symm ▸ Nat.not_lt.mpr below)))
      have newShare : opened.sharedFree = (s.taken n).sharedFree - r.toNat := sharedFree_opened (s := s.taken n) closed rfl rfl
      have live : opened.halted = false := (withPart_halted (s.taken n) p _).trans outsideHalted
      rw [concluded, effect, conclude_opened live newShare (share.symm ▸ covered)]

/-! ### PARTITION_QUIESCE and PARTITION_RESUME -/

section Quiesce
variable {s : State} {n : TNum} {tag : Tag} {q : BitVec 8} {p : PNum}

theorem exec_partitionQuiesce (ready : CommandReady s n) (hq : q.toNat = p.val) :
    exec (.partitionQuiesce tag false q) s
      = .next (State.conclude (s.taken n).sharedFree 0x02 tag ((s.taken n).quiescePartition p tag)) :=
  (returnCommand_ready ready _).trans
    (congrArg Host.Outcome.next (executePart_readPart_freed (fun s p => s.quiescePartition p tag) ready hq))

theorem exec_partitionResume (ready : CommandReady s n) (hq : q.toNat = p.val) :
    exec (.partitionResume tag false q) s
      = .next (State.conclude (s.taken n).sharedFree 0x03 tag ((s.taken n).resumePartition p)) :=
  (returnCommand_ready ready _).trans
    (congrArg Host.Outcome.next (executePart_readPart_freed (fun s p => s.resumePartition p) ready hq))

theorem quiescePartition_idle (opened : (s.part p).st = .opened) (empty : (s.part p).slotsHeld = 0) :
    s.quiescePartition p tag = (s.withPart p fun y => { y with st := .quiesced }).accept [] := by
  simp [State.quiescePartition, opened, empty]

theorem quiescePartition_waits {i : Fin 8} (opened : (s.part p).st = .opened) (holds : 0 < (s.part p).slotsHeld)
    (room : s.deferredFree = some i) :
    s.quiescePartition p tag = ((s.withPart p fun y => { y with st := .quiescing, pendingTag := some tag }).takeDeferred i
      .partitionQuiesce tag p.val, [], .deferred) := by
  simp [State.quiescePartition, opened, Nat.ne_of_gt holds, room]

theorem quiescePartition_full (opened : (s.part p).st = .opened) (holds : 0 < (s.part p).slotsHeld) (full : s.deferredFree = none) :
    s.quiescePartition p tag = s.refuse .deferFull := by
  simp [State.quiescePartition, opened, Nat.ne_of_gt holds, full]

theorem quiescePartition_quiesced (h : (s.part p).st = .quiesced) : s.quiescePartition p tag = s.accept [] := by
  simp [State.quiescePartition, h]

theorem quiescePartition_refused (h : (s.part p).st = .quiescing ∨ (s.part p).st = .faulted ∨ (s.part p).st = .closing
    ∨ (s.part p).st = .closed) : s.quiescePartition p tag = s.refuse .state := by
  rcases h with h | h | h | h <;> simp [State.quiescePartition, h]

theorem resumePartition_quiesced (h : (s.part p).st = .quiesced) :
    s.resumePartition p = (s.withPart p fun y => { y with st := .opened }).accept [] := by
  simp [State.resumePartition, h]

theorem resumePartition_quiescing (h : (s.part p).st = .quiescing) :
    s.resumePartition p = ((s.withPart p fun y => { y with st := .opened, pendingTag := none }).reportDeferred .partitionQuiesce p.val
      .cancelled).accept [] := by
  simp [State.resumePartition, h]

theorem resumePartition_refused (h : (s.part p).st = .opened ∨ (s.part p).st = .faulted ∨ (s.part p).st = .closing
    ∨ (s.part p).st = .closed) : s.resumePartition p = s.refuse .state := by
  rcases h with h | h | h | h <;> simp [State.resumePartition, h]

/-- A change of the entry's state to another that is not CLOSED leaves its deficit. -/
theorem deficit_of_open {y z : Partition} (hy : y.st ≠ .closed) (hz : z.st ≠ .closed) (reserve : z.reserve = y.reserve)
    (held : z.held = y.held) : z.deficit = y.deficit := by
  simp [Partition.deficit, Partition.isOpen, hy, hz, reserve, held]

end Quiesce

/-- Settles O20: the table of R36 row by row. -/
theorem partitionQuiesced : Obligations.PartitionQuiesced := by
  intro s n tag q ready u run
  have outsideHalted := taken_not_halted ready
  refine ⟨fun out => (returnCommand_ready ready _).trans (congrArg Host.Outcome.next (executePart_outOfRange out)), fun p hq => ?_⟩
  intro y
  have concluded : run = _ := exec_partitionQuiesce ready hq
  have kept (opened : y.st = .opened) (f : Partition → Partition) (h : (f y).st ≠ .closed) (reserve : (f y).reserve = y.reserve)
      (held : (f y).held = y.held) : (u.withPart p f).sharedFree = u.sharedFree :=
    sharedFree_withPart u p f (deficit_of_open (by simp [show (u.part p).st = .opened from opened]) h reserve held)
  refine ⟨fun opened empty => ?_, fun opened holds i free taken => ?_, fun opened holds full => ?_, fun quiesced => ?_, fun other => ?_⟩
  · rw [concluded, quiescePartition_idle (s := u) opened empty,
      conclude_accept _ _ _ _ ((withPart_halted ..).trans outsideHalted) (kept opened _ (fun h => by cases h) rfl rfl)]
  · rw [concluded, quiescePartition_waits (s := u) opened holds (deferredFree_some free taken)]
    exact congrArg Host.Outcome.next (conclude_deferred _ _ _ _ (kept opened _ (fun h => by cases h) rfl rfl))
  · rw [concluded, quiescePartition_full (s := u) opened holds (deferredFree_none full), conclude_refuse _ _ _ _ _ outsideHalted rfl]
  · rw [concluded, quiescePartition_quiesced (s := u) quiesced, conclude_accept _ _ _ _ outsideHalted rfl]
  · rw [concluded, quiescePartition_refused (s := u) other, conclude_refuse _ _ _ _ _ outsideHalted rfl]

/-- Settles O21: the table of R38 row by row; the pending quiesce is the entry that waits on the partition. -/
theorem partitionResumed : Obligations.PartitionResumed := by
  intro s n tag q ready u run
  have outsideHalted := taken_not_halted ready
  refine ⟨fun out => (returnCommand_ready ready _).trans (congrArg Host.Outcome.next (executePart_outOfRange out)), fun p hq => ?_⟩
  intro y
  have concluded : run = _ := exec_partitionResume ready hq
  refine ⟨fun quiesced => ?_, fun i d quiescing waits entry posts => ?_, fun other => ?_⟩
  · have kept : (u.withPart p fun y => { y with st := .opened }).sharedFree = u.sharedFree :=
      sharedFree_withPart u p _ (deficit_of_open (by simp [show (u.part p).st = .quiesced from quiesced]) (fun h => by cases h) rfl rfl)
    rw [concluded, resumePartition_quiesced (s := u) quiesced, conclude_accept _ _ _ _ ((withPart_halted ..).trans outsideHalted) kept]
  · obtain ⟨d', sameEntry, operation, -⟩ := deferredAt_some waits
    obtain rfl : d = d' := Option.some.inj (entry.symm.trans sameEntry)
    have kept : (u.withPart p fun y => { y with st := .opened, pendingTag := none }).sharedFree = u.sharedFree :=
      sharedFree_withPart u p _ (deficit_of_open (by simp [show (u.part p).st = .quiescing from quiescing]) (fun h => by cases h) rfl rfl)
    have report := reportDeferred_post (u.withPart p fun y => { y with st := .opened, pendingTag := none }) .partitionQuiesce p.val
      .cancelled i d waits entry posts ((withPart_halted ..).trans outsideHalted)
    rw [operation] at report
    rw [concluded, resumePartition_quiescing (s := u) quiescing, report,
      conclude_accept _ _ _ _ ((halted_adminComplete ..).trans ((halted_setDeferred ..).trans ((withPart_halted ..).trans outsideHalted))) ((sharedFree_adminComplete ..).trans kept)]
    rfl
  · rw [concluded, resumePartition_refused (s := u) other, conclude_refuse _ _ _ _ _ outsideHalted rfl]

/-! ### REPORT_COUNTERS -/

section Report
variable {s : State} {n : TNum} {tag : Tag} {q c : BitVec 8} {p : PNum} {address : HostAddr}

theorem exec_reportCounters_illegal (ready : CommandReady s n)
    (illegal : 16 ≤ q.toNat ∨ (decide (c.toNat ≤ 1) && decide (address.toNat % 32 = 0)) = false) :
    exec (.reportCounters tag false q c address) s = .next ((s.taken n).adminComplete 0x05 tag .badParam 0) :=
  (returnCommand_ready ready _).trans (congrArg Host.Outcome.next (executePart_refused illegal))

theorem exec_reportCounters_legal (ready : CommandReady s n) (hq : q.toNat = p.val)
    (legal : (decide (c.toNat ≤ 1) && decide (address.toNat % 32 = 0)) = true) :
    exec (.reportCounters tag false q c address) s
      = .next (State.conclude (s.taken n).sharedFree 0x05 tag ((s.taken n).reportCounters p (decide (c.toNat = 1)) address)) := by
  refine (returnCommand_ready ready _).trans (congrArg Host.Outcome.next ?_)
  have valid : (!false && decide (c.toNat ≤ 1) && decide (address.toNat % 32 = 0)) = true := legal
  rw [State.runReportCounters, valid]
  exact executePart_readPart_freed (fun s p => s.reportCounters p (decide (c.toNat = 1)) address) ready hq

theorem partState_code (st : PartState) : st.code < 256 := by cases st <;> decide

theorem faultCause_code (c : Option FaultCause) : (c.map FaultCause.code).getD 0 < 256 := by
  rcases c with _ | c
  · decide
  · cases c <;> decide

/-- R201: the fields of a counter report. -/
theorem reportBytes_fields (p : PNum) (y : Partition) :
    let bytes := reportBytes p y
    field bytes 0 1 = p.val ∧ field bytes 8 4 = y.groupsOk.toNat ∧ field bytes 12 4 = y.groupsFailed.toNat
      ∧ field bytes 16 8 = y.bytesMoved.toNat ∧ field bytes 24 4 = y.bufferWaits.toNat ∧ field bytes 3 5 = 0 ∧ field bytes 28 4 = 0
      ∧ field bytes 1 1 = y.st.code ∧ field bytes 2 1 = (y.faultCause.map FaultCause.code).getD 0 :=
  ⟨leNat_byte (p.isLt.trans (by decide)), leNat_leBytes_toNat 4 _ (by decide), leNat_leBytes_toNat 4 _ (by decide),
    leNat_leBytes_toNat 8 _ (by decide), leNat_leBytes_toNat 4 _ (by decide), leNat_leBytes 5 0 (by decide), leNat_leBytes 4 0 (by decide),
    leNat_byte (partState_code _), leNat_byte (faultCause_code _)⟩

end Report

/-- Settles O23: the report goes out before the completion, and the counters are cleared only on request. -/
theorem countersReported : Obligations.CountersReported := by
  intro s n tag q c address ready u legal
  have outsideHalted := taken_not_halted ready
  refine ⟨fun illegal => exec_reportCounters_illegal ready ?_, fun p hq legal => ?_⟩
  · by_cases hq : q.toNat < 16
    · refine .inr (Bool.eq_false_iff.mpr fun ok => illegal ?_)
      rw [Bool.and_eq_true, decide_eq_true_iff, decide_eq_true_iff] at ok
      exact ⟨hq, ok⟩
    · exact .inl (Nat.le_of_not_lt hq)
  · intro y bytes reported
    have concluded := exec_reportCounters_legal (tag := tag) (c := c) (address := address) ready hq (by simp [legal.2.1, legal.2.2])
    obtain ⟨number, ok, failed, moved, waits, zeroLow, zeroHigh, state, cause⟩ := reportBytes_fields p y
    refine ⟨fun closed => ?_, fun open' => ?_, rfl, number, ok, failed, moved, waits, zeroLow, zeroHigh, fun _ => state.trans ?_,
      cause.trans ?_⟩
    · have effect : u.reportCounters p (decide (c.toNat = 1)) address = u.refuse .state := if_pos closed
      rw [concluded, effect, conclude_refuse _ _ _ _ _ outsideHalted rfl]
    · have effect : u.reportCounters p (decide (c.toNat = 1)) address
          = (reported.withPart p fun y => if decide (c.toNat = 1) then y.cleared else y).accept [] := if_neg open'
      have kept : (reported.withPart p fun y => if decide (c.toNat = 1) then y.cleared else y).sharedFree = u.sharedFree := by
        refine sharedFree_withPart reported p _ ?_
        split <;> rfl
      have asked : c.toNat = 1 ↔ c = 1 := BitVec.toNat_inj (y := 1)
      have untouched : (reported.withPart p fun y => if decide (c.toNat = 1) then y.cleared else y).halted = u.halted :=
        (withPart_halted ..).trans (halted_postWrite ..)
      refine (concluded_done concluded effect (untouched.trans outsideHalted) kept).trans (congrArg Host.Outcome.next ?_)
      by_cases one : c = 1
      · rw [if_pos one, decide_eq_true (asked.mpr one)]
        rfl
      · have same : (reported.withPart p fun y => if false = true then y.cleared else y) = reported :=
          congrArg (fun parts => { reported with parts }) (upd_eq_self _ _ _ rfl)
        rw [if_neg one, decide_eq_false (mt asked.mp one), same]
    · cases y.st <;> rfl
    · rcases y.faultCause with _ | cause
      · rfl
      · cases cause <;> rfl

end Sys2Proof.Machine.Proofs
end

section
/-! The window commands (R7 to R11): O25, O26 and O27. -/

namespace Sys2Proof.Machine.Proofs

open Laws

section Windows
variable {s : State} {n : TNum} {tag : Tag} {x o a : BitVec 8} {base length : BitVec 64} {w : WNum} {p : PNum} {access : Access}

/-! ### WINDOW_OPEN -/

theorem rangeOk_iff {base length : Nat} : s.rangeOk base length = true
    ↔ base % 4096 = 0 ∧ length % 4096 = 0 ∧ 4096 ≤ length ∧ base + length ≤ s.cardSize := by
  simp only [State.rangeOk, Bool.and_eq_true, decide_eq_true_iff, and_assoc]
  rfl

theorem accessOfCode_eq_some {k : Nat} (h : accessOfCode k = some access) : 1 ≤ k ∧ k ≤ 3 := by
  unfold accessOfCode at h
  split at h <;> simp_all

theorem accessOfCode_legal (low : 1 ≤ a.toNat) (high : a.toNat ≤ 3) :
    accessOfCode a.toNat = some (if a = 1 then .read else if a = 2 then .write else .readWrite) := by
  obtain rfl | rfl | rfl : a = 1 ∨ a = 2 ∨ a = 3 := by bv_omega
  all_goals rfl

/-- R7, test 1: a window, an owner, an access code or a range out of bounds. -/
theorem runWindowOpen_illegal (illegal : ¬(x.toNat < 64 ∧ o.toNat < 16 ∧ 1 ≤ a.toNat ∧ a.toNat ≤ 3
      ∧ s.rangeOk base.toNat length.toNat = true)) :
    s.runWindowOpen tag false x o a base length = s.badParam 0x10 tag := by
  unfold State.runWindowOpen
  split
  next w access hw hcode =>
    obtain ⟨low, high⟩ := accessOfCode_eq_some hcode
    have hx : x.toNat < 64 := by
      by_contra out
      rw [asNum_eq_none.mpr (Nat.le_of_not_lt out)] at hw
      cases hw
    refine executePart_refused ?_
    by_cases hq : o.toNat < 16
    · exact .inr (Bool.eq_false_iff.mpr fun ok => illegal ⟨hx, hq, low, high, ok⟩)
    · exact .inl (Nat.le_of_not_lt hq)
  next => rfl

theorem exec_windowOpen_legal (ready : CommandReady s n) (hw : x.toNat = w.val) (ho : o.toNat = p.val)
    (code : accessOfCode a.toNat = some access) (range : s.rangeOk base.toNat length.toNat = true) :
    exec (.windowOpen tag false x o a base length) s
      = .next (State.conclude (s.taken n).sharedFree 0x10 tag
          ((s.taken n).openWindow w p base.toNat length.toNat access)) := by
  obtain ⟨-, -, slots, windows, parts⟩ := id ready
  refine (returnCommand_ready ready _).trans (congrArg Host.Outcome.next ?_)
  have inRange : (s.withTag n fun _ => .free).rangeOk base.toNat length.toNat = true := range
  rw [State.runWindowOpen, hw, asNum_val, code]
  dsimp only
  rw [inRange]
  exact executePart_freed (fun s p => s.openWindow w p base.toNat length.toNat access) ho
    (windowOpenReads_good (s := s.withTag n fun _ => .free) slots windows parts w p)

/-- R8 in the words of the statement. -/
theorem conflicts_iff {y : Window} {base length : Nat} : y.conflicts p base length access = true
    ↔ y.st ≠ .free ∧ y.owner ≠ some p ∧ y.cardBase < base + length ∧ base < y.cardBase + y.length
      ∧ (y.access ≠ .read ∨ access ≠ .read) := by
  have writes (b : Access) : b.writes = true ↔ b ≠ .read := by cases b <;> decide
  simp only [Window.conflicts, Window.inUse, overlaps, Bool.and_eq_true, Bool.or_eq_true, decide_eq_true_iff, writes, and_assoc]

/-- The states of window and owner that the later tests of R7 stand behind. -/
def OpenReady (s : State) (w : WNum) (p : PNum) : Prop :=
  (s.window w).st = .free ∧ ((s.part p).st = .opened ∨ (s.part p).st = .quiesced)

theorem openWindow_notReady (h : ¬OpenReady s w p) {base length : Nat} : s.openWindow w p base length access = s.refuse .state := by
  unfold State.openWindow
  split
  · rfl
  next free => exact if_pos (not_or.mp fun owner => h ⟨not_not.mp free, owner⟩)

theorem openWindow_limit (h : OpenReady s w p) (full : 16 ≤ s.windowsOwned p) {base length : Nat} :
    s.openWindow w p base length access = s.refuse .limit := by
  obtain ⟨free, owner⟩ := h
  unfold State.openWindow
  rw [if_neg (not_not.mpr free), if_neg (fun both => owner.elim both.1 both.2)]
  exact if_pos full

theorem openWindow_overlap {v : WNum} (h : OpenReady s w p) (room : s.windowsOwned p < 16) {base length : Nat}
    (found : s.conflict p base length access = some v) :
    s.openWindow w p base length access = (s, [], .done .overlap v.val) := by
  obtain ⟨free, owner⟩ := h
  unfold State.openWindow
  rw [if_neg (not_not.mpr free), if_neg (fun both => owner.elim both.1 both.2), found]
  exact if_neg (Nat.not_le.mpr room)

theorem openWindow_fills (h : OpenReady s w p) (room : s.windowsOwned p < 16) {base length : Nat}
    (clear : s.conflict p base length access = none) :
    s.openWindow w p base length access = (s.withWindow w fun _ => Window.fresh p base length access).accept [] := by
  obtain ⟨free, owner⟩ := h
  unfold State.openWindow
  rw [if_neg (not_not.mpr free), if_neg (fun both => owner.elim both.1 both.2), clear]
  exact if_neg (Nat.not_le.mpr room)

end Windows

/-- Settles O25: the parameters, the states of window and owner, the owner's count and the lowest conflict decide in this order. -/
theorem windowOpened : Obligations.WindowOpened := by
  intro s n tag x o a base length ready u access run legal
  have outsideHalted := taken_not_halted ready
  constructor
  · intro illegal
    refine (returnCommand_ready ready _).trans (congrArg Host.Outcome.next (runWindowOpen_illegal ?_))
    exact fun ⟨hx, ho, low, high, range⟩ => illegal ⟨hx, ho, low, high, rangeOk_iff.mp range⟩
  · intro w p hw ho ⟨_, _, low, high, range⟩ mine conflicts isReady
    have concluded : run = _ := exec_windowOpen_legal (tag := tag) ready hw ho (accessOfCode_legal low high) (rangeOk_iff.mpr range)
    have owned : u.windowsOwned p = mine := rfl
    refine ⟨fun h => ?_, fun h full => ?_, fun v h room hits least => ?_, fun h room clear => ?_⟩
    · rw [concluded, openWindow_notReady (s := u) h, conclude_refuse _ _ _ _ _ outsideHalted rfl]
    · rw [concluded, openWindow_limit (s := u) h (owned.symm ▸ full), conclude_refuse _ _ _ _ _ outsideHalted rfl]
    · have found : u.conflict p base.toNat length.toNat access = some v :=
        lowest_eq_some (conflicts_iff.mpr hits) fun j hj => Bool.eq_false_iff.mpr (mt conflicts_iff.mp (least j hj))
      rw [concluded, openWindow_overlap (s := u) h (owned.symm ▸ room) found, conclude_done _ _ _ _ _ _ outsideHalted rfl]
    · have found : u.conflict p base.toNat length.toNat access = none :=
        lowest_none.mpr fun j => Bool.eq_false_iff.mpr (mt conflicts_iff.mp (clear j))
      rw [concluded, openWindow_fills (s := u) h (owned.symm ▸ room) found,
        conclude_accept _ _ _ _ ((withWindow_halted ..).trans outsideHalted) (sharedFree_withWindow ..)]
      rfl

/-! ### WINDOW_LOCK and WINDOW_CLOSE -/

section Close
variable {s : State} {n : TNum} {tag : Tag} {x : BitVec 8} {w : WNum}

theorem executeWindow_outOfRange {o : Nat} {effect : State → WNum → Effect} (hx : 64 ≤ x.toNat) :
    s.executeWindow o tag false x effect = s.badParam o tag := by
  rw [State.executeWindow, asNum_eq_none.mpr hx]

theorem executeWindow_freed {o : Nat} (effect : State → WNum → Effect) (ready : CommandReady s n) (hx : x.toNat = w.val) :
    (s.withTag n fun _ => .free).executeWindow o tag false x effect
      = State.conclude (s.taken n).sharedFree o tag (effect (s.taken n) w) := by
  obtain ⟨-, -, slots, windows, parts⟩ := ready
  rw [State.executeWindow, hx, asNum_val]
  exact execute_freed (reads := fun s => s.readWindow w) (fun s => effect s w)
    (readWindow_good (s := s.withTag n fun _ => .free) slots windows parts w)

theorem exec_windowLock (ready : CommandReady s n) (hx : x.toNat = w.val) :
    exec (.windowLock tag false x) s = .next (State.conclude (s.taken n).sharedFree 0x11 tag ((s.taken n).lockWindow w)) :=
  (returnCommand_ready ready _).trans (congrArg Host.Outcome.next (executeWindow_freed State.lockWindow ready hx))

theorem exec_windowClose (ready : CommandReady s n) (hx : x.toNat = w.val) :
    exec (.windowClose tag false x) s = .next (State.conclude (s.taken n).sharedFree 0x12 tag ((s.taken n).closeWindow w tag)) :=
  (returnCommand_ready ready _).trans (congrArg Host.Outcome.next (executeWindow_freed (fun s w => s.closeWindow w tag) ready hx))

/-- R15: the checks on an operand see no difference between an OPEN window and a LOCKED one. -/
theorem checkOperand_locked (opened : (s.window w).st = .opened) (p : PNum) (len : Nat) (o : CardOperand) :
    (s.withWindow w fun y => { y with st := .locked }).checkOperand p len o = s.checkOperand p len o := by
  unfold State.checkOperand
  cases asNum 64 o.window with
  | none => rfl
  | some v =>
    by_cases same : v = w
    · subst same
      have entry : (s.withWindow v fun y => { y with st := .locked }).window v = { s.window v with st := .locked } := look_upd_same ..
      simp [entry, opened]
    · have entry : (s.withWindow w fun y => { y with st := .locked }).window v = s.window v := look_upd_ne _ _ _ _ same
      simp [entry]

theorem closeWindow_refused (h : (s.window w).st = .free ∨ (s.window w).st = .retiring) : s.closeWindow w tag = s.refuse .state := by
  rcases h with h | h <;> simp [State.closeWindow, h]

theorem closeWindow_locked (h : (s.window w).st = .locked) : s.closeWindow w tag = s.refuse .locked := by
  simp [State.closeWindow, h]

theorem closeWindow_unreferenced (h : (s.window w).st = .opened) (refs : (s.window w).refs = 0) :
    s.closeWindow w tag = (s.withWindow w Window.freed).accept [] := by
  simp [State.closeWindow, h, refs]

theorem closeWindow_full (h : (s.window w).st = .opened) (refs : 0 < (s.window w).refs) (full : s.deferredFree = none) :
    s.closeWindow w tag = s.refuse .deferFull := by
  simp [State.closeWindow, h, Nat.ne_of_gt refs, full]

theorem closeWindow_retires {i : Fin 8} (h : (s.window w).st = .opened) (refs : 0 < (s.window w).refs)
    (room : s.deferredFree = some i) :
    s.closeWindow w tag = ((s.withWindow w fun y => { y with st := .retiring, closeTag := some tag }).takeDeferred i .windowClose tag
      w.val, [], .deferred) := by
  simp [State.closeWindow, h, Nat.ne_of_gt refs, room]

end Close

/-- Settles O26: only an OPEN window is locked, and its lock is no test of an operand. -/
theorem windowLocked : Obligations.WindowLocked := by
  intro s n tag x ready u run
  have outsideHalted := taken_not_halted ready
  refine ⟨fun out => (returnCommand_ready ready _).trans (congrArg Host.Outcome.next (executeWindow_outOfRange out)),
    fun w hx => ⟨fun opened => ⟨?_, checkOperand_locked opened⟩, fun other => ?_⟩⟩
  · have effect : u.lockWindow w = (u.withWindow w fun y => { y with st := .locked }).accept [] := if_pos opened
    exact (exec_windowLock ready hx).trans (congrArg Host.Outcome.next ((congrArg (State.conclude _ _ _) effect).trans
      (conclude_accept _ _ _ _ ((withWindow_halted ..).trans outsideHalted) (sharedFree_withWindow ..))))
  · have effect : u.lockWindow w = u.refuse .state := if_neg fun opened => by
      have opened : (s.window w).st = .opened := opened
      rcases other with h | h | h <;> cases opened.symm.trans h
    exact (exec_windowLock ready hx).trans (congrArg Host.Outcome.next ((congrArg (State.conclude _ _ _) effect).trans
      (conclude_refuse _ _ _ _ _ outsideHalted rfl)))

/-- Settles O27: the table of R11 row by row. -/
theorem windowClosed : Obligations.WindowClosed := by
  intro s n tag x ready u run
  have outsideHalted := taken_not_halted ready
  refine ⟨fun out => (returnCommand_ready ready _).trans (congrArg Host.Outcome.next (executeWindow_outOfRange out)), fun w hx => ?_⟩
  have concluded : run = _ := exec_windowClose (tag := tag) ready hx
  refine ⟨fun h => ?_, fun h => ?_, fun opened refs => ?_, fun opened refs full => ?_, fun i opened refs free taken => ?_⟩
  · rw [concluded, closeWindow_refused (s := u) h, conclude_refuse _ _ _ _ _ outsideHalted rfl]
  · rw [concluded, closeWindow_locked (s := u) h, conclude_refuse _ _ _ _ _ outsideHalted rfl]
  · rw [concluded, closeWindow_unreferenced (s := u) opened refs,
      conclude_accept _ _ _ _ ((withWindow_halted ..).trans outsideHalted) (sharedFree_withWindow ..)]
    rfl
  · rw [concluded, closeWindow_full (s := u) opened refs (deferredFree_none full), conclude_refuse _ _ _ _ _ outsideHalted rfl]
  · rw [concluded, closeWindow_retires (s := u) opened refs (deferredFree_some free taken)]
    exact congrArg Host.Outcome.next (conclude_deferred _ _ _ _ rfl)

end Sys2Proof.Machine.Proofs
end

section
/-! The fences, the watermark and the event ring (R22, R25, R26, R116, R149 to R156): O28, O30, O32 and O34. -/

namespace Sys2Proof.Machine.Proofs

open Laws

/-! ### FENCE_SET -/

section FenceSet
variable {s : State} {n : TNum} {tag : Tag} {x : BitVec 8} {base length : BitVec 64} {f : FNum}

theorem exec_fenceSet_illegal (ready : CommandReady s n)
    (illegal : ¬(x.toNat < 8 ∧ s.rangeOk base.toNat length.toNat = true)) :
    exec (.fenceSet tag false x base length) s = .next ((s.taken n).adminComplete 0x18 tag .badParam 0) := by
  refine (returnCommand_ready ready _).trans (congrArg Host.Outcome.next ?_)
  by_cases hx : x.toNat < 8
  · have bad : (s.withTag n fun _ => .free).rangeOk base.toNat length.toNat = false :=
      Bool.eq_false_iff.mpr fun ok => illegal ⟨hx, ok⟩
    rw [State.runFenceSet, bad]
    exact executeFence_invalid
  · rw [State.runFenceSet, State.executeFence, asNum_eq_none.mpr (Nat.le_of_not_lt hx)]
    rfl

theorem exec_fenceSet_legal (ready : CommandReady s n) (hx : x.toNat = f.val)
    (range : s.rangeOk base.toNat length.toNat = true) :
    exec (.fenceSet tag false x base length) s
      = .next (State.conclude (s.taken n).sharedFree 0x18 tag ((s.taken n).setFence f base.toNat length.toNat tag)) := by
  refine (returnCommand_ready ready _).trans (congrArg Host.Outcome.next ?_)
  have inRange : (s.withTag n fun _ => .free).rangeOk base.toNat length.toNat = true := range
  rw [State.runFenceSet, inRange, State.executeFence, hx, asNum_val]
  exact execute_readNone_freed 0x18 tag fun s => s.setFence f base.toNat length.toNat tag

theorem setFence_locked (locked : s.fences.locked = true) {base length : Nat} :
    s.setFence f base length tag = s.refuse .locked := if_pos locked

theorem setFence_inUse (unlocked : s.fences.locked = false) (used : (s.fence f).st ≠ .empty) {base length : Nat} :
    s.setFence f base length tag = s.refuse .inUse :=
  (if_neg (Bool.eq_false_iff.mp unlocked)).trans (if_pos used)

section Empty
variable (unlocked : s.fences.locked = false) (empty : (s.fence f).st = .empty) {base length : Nat}
include unlocked empty

theorem setFence_active (clear : (s.overlapping base length).isEmpty = true) :
    s.setFence f base length tag = (s.activateFence f base length).accept [] :=
  (if_neg (Bool.eq_false_iff.mp unlocked)).trans ((if_neg (not_not.mpr empty)).trans (if_pos clear))

theorem setFence_full (counted : (s.overlapping base length).isEmpty = false) (full : s.deferredFree = none) :
    s.setFence f base length tag = s.refuse .deferFull := by
  simp [State.setFence, unlocked, empty, counted, full]

theorem setFence_begins {i : Fin 8} (counted : (s.overlapping base length).isEmpty = false) (room : s.deferredFree = some i) :
    s.setFence f base length tag = ((s.beginFence f base length tag).takeDeferred i .fenceSet tag f.val, [], .deferred) := by
  simp [State.setFence, unlocked, empty, counted, room]

end Empty

end FenceSet

/-- Settles O28: the parameters, the lock and the entry decide first; then the access records that overlap the range are counted. -/
theorem fenceSet : Obligations.FenceSet := by
  intro s n tag x base length ready u run legal
  have outsideHalted := taken_not_halted ready
  refine ⟨fun illegal => exec_fenceSet_illegal ready fun ⟨hx, range⟩ => illegal ⟨hx, rangeOk_iff.mp range⟩,
    fun f hx ⟨_, range⟩ => ?_⟩
  intro hit count isReady
  have concluded : run = _ := exec_fenceSet_legal (tag := tag) ready hx (rangeOk_iff.mpr range)
  have counted : (u.overlapping base.toNat length.toNat).length = count := rfl
  have someOverlap (positive : 0 < count) : (u.overlapping base.toNat length.toNat).isEmpty = false := by
    rw [List.isEmpty_eq_false_iff_exists_mem]
    exact List.exists_mem_of_length_pos (counted.symm ▸ positive)
  refine ⟨fun locked => ?_, fun unlocked used => ?_, fun h none => ?_, fun h positive full => ?_, fun i h positive free taken => ?_⟩
  · rw [concluded, setFence_locked (s := u) locked, conclude_refuse _ _ _ _ _ outsideHalted rfl]
  · rw [concluded, setFence_inUse (s := u) unlocked used, conclude_refuse _ _ _ _ _ outsideHalted rfl]
  · have clear : (u.overlapping base.toNat length.toNat).isEmpty = true :=
      List.isEmpty_iff.mpr (List.eq_nil_of_length_eq_zero (counted.trans none))
    have live : (u.activateFence f base.toNat length.toNat).halted = false := (withFence_halted ..).trans outsideHalted
    rw [concluded, setFence_active (s := u) h.1 h.2 clear, conclude_accept _ _ _ _ live (sharedFree_withFence ..)]
    rfl
  · rw [concluded, setFence_full (s := u) h.1 h.2 (someOverlap positive) (deferredFree_none full),
      conclude_refuse _ _ _ _ _ outsideHalted rfl]
  · rw [concluded, setFence_begins (s := u) h.1 h.2 (someOverlap positive) (deferredFree_some free taken)]
    exact congrArg Host.Outcome.next (conclude_deferred _ _ _ _ rfl)

/-- Settles O30: the check finds the lowest entry that stops the access; an access it lets through is issued with its record. -/
theorem fenceCheck : Obligations.FenceCheck := by
  intro s i k base len write
  constructor
  · intro f stops least
    have lowestStop : FenceStops s base len f :=
      ⟨⟨stops.1, stops.2.2, stops.2.1⟩, fun j hj meets => least j hj ⟨meets.1, meets.2.2, meets.2.1⟩⟩
    exact presentAccess_stopped _ _ _ _ _ _ _ (fenceHit_of_stops lowestStop)
  · intro free
    have clear : FenceClear s base len := fun f => by
      by_contra meets
      obtain ⟨inForce, above, below⟩ : (s.fence f).st ≠ .empty ∧ ¬(s.fence f).cardBase + (s.fence f).length ≤ base
          ∧ ¬base + len ≤ (s.fence f).cardBase := by simpa only [not_or] using meets
      exact free f ⟨inForce, Nat.lt_of_not_le above, Nat.lt_of_not_le below⟩
    exact ⟨_, presentAccess_issued _ _ _ _ _ _ (fenceHit_of_clear clear), rfl⟩

/-! ### POOL_WATERMARK -/

/-- Settles O32: the new watermark's evaluation, its event before the completion. -/
theorem watermarkSet : Obligations.WatermarkSet := by
  intro s n tag w ready u f run at'
  have outsideHalted := taken_not_halted ready
  have illegal (high : 64 < w.toNat) : run = .next (u.adminComplete 0x21 tag .badParam 0) := by
    refine (returnCommand_ready ready _).trans (congrArg Host.Outcome.next ?_)
    rw [State.runPoolWatermark, decide_eq_false (Nat.not_le.mpr high)]
    exact execute_invalid ..
  have marked (legal : w.toNat ≤ 64) :
      run = .next ((u.withPool fun q => { q with watermark := w.toNat }).evalWatermark.adminComplete 0x21 tag .ok 0) := by
    refine (returnCommand_ready ready _).trans (congrArg Host.Outcome.next ?_)
    rw [State.runPoolWatermark, decide_eq_true legal]
    refine (execute_readNone_freed 0x21 tag fun s => s.setWatermark w.toNat).trans ?_
    exact conclude_accept _ _ _ _ ((halted_evalWatermark _).trans outsideHalted) (sharedFree_evalWatermark _)
  have share : (u.withPool fun q => { q with watermark := w.toNat }).sharedFree = f := rfl
  have mark : (u.withPool fun q => { q with watermark := w.toNat }).pool.watermark = w.toNat := rfl
  refine ⟨illegal, fun legal low below => ?_, fun legal low above => ?_, fun legal low above => ?_, fun legal low below => ?_⟩
  all_goals
    have state : (u.withPool fun q => { q with watermark := w.toNat }).pool.low = _ := low
    rw [marked legal, evalWatermark_of, share, mark, state]
  · rw [if_neg Bool.false_ne_true, if_pos below]
    rfl
  · rw [if_neg Bool.false_ne_true, if_neg (Nat.not_lt.mpr above)]
    rfl
  · rw [if_pos rfl, if_pos above]
    rfl
  · rw [if_pos rfl, if_neg (Nat.not_le.mpr below)]
    rfl

/-! ### The event ring -/

section EventRing
variable {s : State} {n : TNum} {tag : Tag} {k : BitVec 16} {base : HostAddr}

theorem eventRingParamsOk_iff : eventRingParamsOk k.toNat base = true
    ↔ (k = 0 ∨ k.toNat ∈ [16, 32, 64, 128, 256, 512, 1024]) ∧ base.toNat % 4096 = 0 ∧ (k = 0 → base = 0) := by
  have zero : k.toNat = 0 ↔ k = 0 := BitVec.toNat_inj (y := 0)
  have size : sizeBetween k.toNat 4 10 = true ↔ k.toNat ∈ [16, 32, 64, 128, 256, 512, 1024] := by
    simp [sizeBetween, List.range_succ]
  simp only [eventRingParamsOk, Bool.and_eq_true, Bool.or_eq_true, decide_eq_true_iff, size, ne_eq, zero, and_assoc,
    ← imp_iff_not_or]
  rfl

/-- What a vector makes of a record does not depend on the event ring. -/
theorem newRecord_withEvents (v : VNum) (urgent : Bool) (f : Machine.EventRing → Machine.EventRing) :
    (s.newRecord v urgent).withEvents f = (s.withEvents f).newRecord v urgent := by
  unfold State.newRecord State.react
  dsimp only
  rw [show (s.withEvents f).vector v = s.vector v from rfl]
  split <;> rfl

/-- R150, R151: the ring takes an event when it is configured and not full. -/
theorem takes_iff {r : Machine.EventRing} :
    r.takes = true ↔ r.configured = true ∧ 0 < r.size ∧ ((r.tail : Int) - r.head) % r.size + 1 < r.size := by
  rw [Machine.EventRing.takes, Bool.and_eq_true, Bool.not_eq_true', full_eq_false_iff]
  refine and_congr_right fun _ => ⟨fun room => ?_, fun ⟨sized, room⟩ => ?_⟩
  · have sized : 0 < r.size := by omega
    exact ⟨sized, by rw [← ringSpan_eq sized]; omega⟩
  · rw [← ringSpan_eq sized] at room
    omega

theorem exec_eventRingSet_illegal (ready : CommandReady s n) (bad : eventRingParamsOk k.toNat base = false) :
    exec (.eventRingSet tag false k base) s = .next ((s.taken n).adminComplete 0x30 tag .badParam 0) := by
  refine (returnCommand_ready ready _).trans (congrArg Host.Outcome.next ?_)
  rw [State.runEventRingSet, bad]
  exact execute_invalid ..

theorem exec_eventRingSet_legal (ready : CommandReady s n) (legal : eventRingParamsOk k.toNat base = true) :
    exec (.eventRingSet tag false k base) s
      = .next (((s.taken n).setEventRing k.toNat base).adminComplete 0x30 tag .ok 0) := by
  refine (returnCommand_ready ready _).trans (congrArg Host.Outcome.next ?_)
  rw [State.runEventRingSet, legal]
  refine (execute_readNone_freed 0x30 tag fun s => (s.setEventRing k.toNat base).accept []).trans ?_
  exact conclude_accept _ _ _ _ ((halted_setEventRing ..).trans (taken_not_halted ready)) (sharedFree_setEventRing ..)

/-- R156: the ring as EVENT_RING_SET leaves it before a pending lost count is written. -/
def freshRing (k : Nat) (base : HostAddr) (r : Machine.EventRing) : Machine.EventRing :=
  { configured := decide (k ≠ 0), base, size := k, tail := 0, head := 0, pass := true, lost := r.lost }

theorem setEventRing_quiet {k : Nat} (h : k = 0 ∨ s.events.lost = 0) :
    s.setEventRing k base = s.withEvents (freshRing k base) := by
  have nothing : ¬(decide (k ≠ 0) && decide (0 < (s.withEvents (freshRing k base)).events.lost)) = true := by
    have kept : (s.withEvents (freshRing k base)).events.lost = s.events.lost := rfl
    rw [kept, Bool.and_eq_true, decide_eq_true_iff, decide_eq_true_iff]
    omega
  exact if_neg nothing

/-- R156, R154: a lost count goes to entry 0 of a ring of more than one entry. -/
theorem setEventRing_lost {k : Nat} (sized : 1 < k) (lost : 0 < s.events.lost) :
    s.setEventRing k base
      = ((s.postWrite { kind := .event, addr := base, bytes := (Event.eventsLost s.events.lost).bytes true }).withEvents fun _ =>
          { configured := true, base, size := k, tail := 1, head := 0, pass := true, lost := 0 }).newRecord eventVector false := by
  have configured : decide (k ≠ 0) = true := decide_eq_true (by omega)
  have pending : (decide (k ≠ 0) && decide (0 < (s.withEvents (freshRing k base)).events.lost)) = true := by
    rw [configured]
    exact decide_eq_true lost
  have advanced : (freshRing k base s.events).advance
      = { configured := true, base, size := k, tail := 1, head := 0, pass := true, lost := s.events.lost } := by
    have tail : ringNext 0 k = 1 := Nat.mod_eq_of_lt sized
    simp only [Machine.EventRing.advance, freshRing, tail, configured, if_neg Nat.one_ne_zero]
  have address : base + BitVec.ofNat 64 (16 * 0) = base := BitVec.add_zero base
  have lostWritten : s.setEventRing k base = (s.withEvents (freshRing k base)).writeLost := if_pos pending
  have moved : (s.withEvents (freshRing k base)).writeEvent (.eventsLost s.events.lost)
      = ((s.postWrite ⟨.event, base + BitVec.ofNat 64 (16 * 0), (Event.eventsLost s.events.lost).bytes true⟩).withEvents fun _ =>
          (freshRing k base s.events).advance).newRecord eventVector false := rfl
  have counted : (s.withEvents (freshRing k base)).events.lost = s.events.lost := rfl
  rw [lostWritten, State.writeLost, counted, moved, address, advanced, newRecord_withEvents]
  rfl

end EventRing

/-- Settles O34: the fresh ring, the lost count in its first entry, and the two ways of an event handed over. -/
theorem eventRingConfigured : Obligations.EventRingConfigured := by
  constructor
  · intro s n tag k base ready u run legal afresh
    have zero : k.toNat = 0 ↔ k = 0 := BitVec.toNat_inj (y := 0)
    have ring : u.withEvents (freshRing k.toNat base) = afresh := by
      have same : decide (k.toNat ≠ 0) = decide (k ≠ 0) := decide_eq_decide.mpr (not_congr zero)
      exact congrArg (fun c => u.withEvents fun r =>
        { configured := c, base, size := k.toNat, tail := 0, head := 0, pass := true, lost := r.lost }) same
    have done (h : legal) : run = .next ((u.setEventRing k.toNat base).adminComplete 0x30 tag .ok 0) :=
      exec_eventRingSet_legal ready (eventRingParamsOk_iff.mpr h)
    refine ⟨fun illegal => exec_eventRingSet_illegal ready (Bool.eq_false_iff.mpr fun ok => illegal (eventRingParamsOk_iff.mp ok)),
      fun h quiet => ?_, fun h nonzero lost => ?_⟩
    · rw [done h, setEventRing_quiet (s := u) (quiet.imp_left zero.mpr), ring]
    · have sized : 1 < k.toNat := by
        obtain ⟨isZero | listed, -⟩ := h
        · exact absurd isZero nonzero
        · simp only [List.mem_cons, List.not_mem_nil, or_false] at listed
          omega
      rw [done h, setEventRing_lost (s := u) sized lost]
      rfl
  · intro s e r next urgent written
    have isWritten : s.writeEvent e = written := by
      cases e <;> rfl
    refine ⟨isWritten, ?_⟩
    by_cases takes : r.configured = true ∧ 0 < r.size ∧ ((r.tail : Int) - r.head) % r.size + 1 < r.size
    · rw [if_pos takes, ← isWritten]
      exact handOver_written s e (takes_iff.mpr takes)
    · rw [if_neg takes]
      exact handOver_lost s e (Bool.eq_false_iff.mpr (mt takes_iff.mp takes))

end Sys2Proof.Machine.Proofs
end

section
/-! Choices in an order of turn: the partition that is served, the request that goes out, and the requester that a buffer goes to (R57,
R58, R111, R112, R177): O38, O39 and O48. -/

namespace Sys2Proof.Machine.Proofs

open Laws

/-! ### The order of turn -/

/-- R57, R111: the partition `k` places after the one that follows the pointer, with what comes before it. -/
theorem roundRobin_split {pointer p : PNum} {k : Nat} (hk : k < 16) (hp : p.val = (pointer.val + 1 + k) % 16) :
    ∃ before after, roundRobin pointer = before ++ p :: after ∧ ∀ q ∈ before, ∃ j < k, q.val = (pointer.val + 1 + j) % 16 := by
  let turn (j : Nat) : PNum := ⟨(pointer.val + 1 + j) % 16, Nat.mod_lt _ (by decide)⟩
  have cut : List.range 16 = List.range k ++ List.range' k (16 - k) := by
    have all := List.range'_append_1 (s := 0) (m := k) (n := 16 - k)
    rw [Nat.zero_add, Nat.add_sub_cancel' hk.le] at all
    rw [List.range_eq_range', List.range_eq_range', all]
  have here : turn k = p := Fin.ext hp.symm
  refine ⟨(List.range k).map turn, (List.range' (k + 1) (15 - k)).map turn, ?_, fun q hq => ?_⟩
  · have next : List.range' k (16 - k) = k :: List.range' (k + 1) (15 - k) := by
      rw [show 16 - k = 15 - k + 1 by omega, List.range'_succ]
    rw [roundRobin, cut, List.map_append, next, List.map_cons, ← here]
  · obtain ⟨j, hj, rfl⟩ := List.mem_map.mp hq
    exact ⟨j, List.mem_range.mp hj, rfl⟩

theorem mem_roundRobin (pointer p : PNum) : p ∈ roundRobin pointer := by
  refine List.mem_map.mpr ⟨(p.val + 15 - pointer.val) % 16, List.mem_range.mpr (Nat.mod_lt _ (by decide)), Fin.ext ?_⟩
  have := p.isLt
  have := pointer.isLt
  show (pointer.val + 1 + (p.val + 15 - pointer.val) % 16) % 16 = p.val
  omega

/-! ### The partition that is served -/

section Serve
variable {s : State} {p : PNum}

theorem eligible_iff : s.eligible p = true ↔ Eligible s p := by
  have noBarrier : s.barrierHeld p = false ↔ ∀ i, (s.slot i).st ≠ .free → (s.slot i).partition = p → (s.slot i).barrier = false := by
    simp [State.barrierHeld, State.slotsOf, Slot.occupied]
  simp only [State.eligible, Bool.and_eq_true, Bool.not_eq_true', noBarrier, decide_eq_true_iff, Option.isNone_iff_eq_none, and_assoc,
    Partition.hasEntry]
  rfl

/-- R57: among good entries the choice is the first eligible partition after the pointer. -/
theorem choice_eq {k : Nat} (good : ∀ q, (s.part q).parityOk = true) (hk : k < 16)
    (hp : p.val = (s.sched.pointer.val + 1 + k) % 16) (eligible : Eligible s p)
    (earlier : ∀ j < k, ∀ q : PNum, q.val = (s.sched.pointer.val + 1 + j) % 16 → ¬Eligible s q) : s.choice = some p := by
  have test (q : PNum) : (!(s.part q).parityOk || s.eligible q) = s.eligible q := by rw [good q, Bool.not_true, Bool.false_or]
  obtain ⟨before, after, order, first⟩ := roundRobin_split hk hp
  rw [State.choice, order, List.find?_append, List.find?_eq_none.mpr, Option.none_or, List.find?_cons_of_pos]
  · exact (test p).trans (eligible_iff.mpr eligible)
  · intro q hq
    obtain ⟨j, hj, hq⟩ := first q hq
    exact fun h => earlier j hj q hq (eligible_iff.mp ((test q).symm.trans h))

/-- R58: the slot, the partition's counts and the pointer, and the read of the record at sq_head. -/
theorem serve_eq {i : SNum} (aligned : ((s.part p).sqBase.toNat + 64 * (s.part p).sqHead) % 64 = 0) : s.serve p i
    = (((((s.withSlot i fun _ => { Slot.free with st := .assembling, partition := p, firstIndex := (s.part p).sqHead }).withPart p
        fun y => { y with slotsHeld := y.slotsHeld + 1, cqReserved := y.cqReserved + 1 }).withSched fun c => { c with pointer := p }).withAssembling
          p (some { slot := i, membersRead := 0, readOutstanding := true })).withLink fun l => { l with queue := l.queue ++
            [{ requester := .record i, addr := (s.part p).recordAddr, len := 64, place := 0 }] }) := by
  generalize hu : ((s.withSlot i fun _ => { Slot.free with
      st := .assembling, partition := p, firstIndex := (s.part p).sqHead }).withPart p fun y =>
        { y with slotsHeld := y.slotsHeld + 1, cqReserved := y.cqReserved + 1 }).withSched (fun c => { c with pointer := p }) = u
  have entry : u.part p = { s.part p with slotsHeld := (s.part p).slotsHeld + 1, cqReserved := (s.part p).cqReserved + 1 } := by
    rw [← hu]
    exact withPart_part_same ..
  have address : (u.part p).recordAddr = (s.part p).recordAddr := by
    rw [entry]
    rfl
  have read : s.serve p i = u.readRecord p i 0 := by
    rw [← hu]
    rfl
  rw [read, readRecord_eq (by rw [entry]; exact aligned), address]

end Serve

/-- Settles O38: the choice and the lowest FREE slot meet; the record read is the one at sq_head. -/
theorem partitionServed : Obligations.PartitionServed := by
  intro s k p i running ⟨_, _, good⟩ hk hp eligible earlier free lower aligned
  have slot : s.freeSlotNumber = some i := lowest_eq_some (decide_eq_true free) fun j hj => decide_eq_false (lower j hj)
  have choice := choice_eq good hk hp eligible earlier
  have live : s.running = true := decide_eq_true running
  have served : exec .servePartition s = .next (s.serve p i) := by
    refine congrArg Host.Outcome.next ?_
    simp only [live, slot, choice, good p, if_true]
  rw [served, serve_eq aligned]
  rfl

/-- Settles O39: the lowest FREE tag takes the front request with the timeout in force. -/
theorem readRequestIssued : Obligations.ReadRequestIssued := by
  intro s q rest live queue
  have active : s.active = true := by
    rcases live with h | h <;> simp [State.active, State.running, State.stopping, h]
  have isFree (n : TNum) : (s.tag n).isFree = true ↔ s.tag n = .free := by cases s.tag n <;> simp [TagState.isFree]
  have issue (t : Option TNum) (h : s.freeTag = t) : exec .hostReadRequestIssue s
      = .next (t.elim s fun n => s.issueRead q rest n) := by
    refine congrArg Host.Outcome.next ?_
    rw [active, queue, h]
    cases t <;> rfl
  refine ⟨fun n free lower => ?_, fun none => ?_⟩
  · exact issue (some n) (lowest_eq_some ((isFree n).mpr free) fun m hm => Bool.eq_false_iff.mpr (mt (isFree m).mp (lower m hm)))
  · exact issue _ (lowest_none.mpr fun n => Bool.eq_false_iff.mpr (mt (isFree n).mp (none n)))

/-! ### The buffer arbiter -/

section Arbiter
variable {s : State} {q : PNum} {i : SNum}

theorem oldest_eq_none : s.pool.oldest q = none ↔ ∀ i, (i, q) ∉ s.pool.waiting := by
  simp only [Pool.oldest, Option.map_eq_none_iff, List.find?_eq_none, decide_eq_true_iff]
  exact ⟨fun h i hi => h _ hi rfl, fun h x hx same => h x.1 (same ▸ hx)⟩

theorem oldest_eq_some {before after : List (SNum × PNum)} (waiting : s.pool.waiting = before ++ (i, q) :: after)
    (others : ∀ x ∈ before, x.2 ≠ q) : s.pool.oldest q = some i := by
  have none : before.find? (fun w => decide (w.2 = q)) = none :=
    List.find?_eq_none.mpr fun x hx => by simpa using others x hx
  simp [Pool.oldest, waiting, List.find?_append, none]

/-- What the arbiter makes of one partition in its order. -/
def arbiterOffer (s : State) (q : PNum) : Option (PNum × SNum) :=
  (s.pool.oldest q).bind fun i => if s.eligibleForBuffer q then some (q, i) else none

theorem arbiterPick_eq : s.arbiterPick = (roundRobin s.pool.pointer).findSome? (arbiterOffer s) := by
  refine congrArg (List.findSome? · _) (funext fun q => ?_)
  unfold arbiterOffer
  cases s.pool.oldest q <;> rfl

theorem arbiterOffer_eq_none : arbiterOffer s q = none ↔ ((∃ i, (i, q) ∈ s.pool.waiting) → ¬MayTake s q) := by
  rw [← eligibleForBuffer_iff]
  cases h : s.pool.oldest q with
  | none =>
    have noOne := oldest_eq_none.mp h
    simp [arbiterOffer, h, noOne]
  | some i =>
    have someOne : ∃ i, (i, q) ∈ s.pool.waiting := by
      by_contra none
      rw [oldest_eq_none.mpr (not_exists.mp none)] at h
      cases h
    simp [arbiterOffer, h, someOne]

/-- R111: nobody is picked exactly when no partition with a requester may take a buffer. -/
theorem arbiterPick_eq_none : s.arbiterPick = none ↔ ∀ q, (∃ i, (i, q) ∈ s.pool.waiting) → ¬MayTake s q := by
  simp only [arbiterPick_eq, List.findSome?_eq_none_iff, mem_roundRobin, forall_const, arbiterOffer_eq_none]

/-- R111: the pick is the oldest requester of the first partition after the pointer that has one and may take a buffer. -/
theorem arbiterPick_eq_some {k : Nat} {before after : List (SNum × PNum)} (hk : k < 16)
    (hq : q.val = (s.pool.pointer.val + 1 + k) % 16)
    (earlier : ∀ j < k, ∀ q' : PNum, q'.val = (s.pool.pointer.val + 1 + j) % 16 → (∃ i, (i, q') ∈ s.pool.waiting) → ¬MayTake s q')
    (may : MayTake s q) (waiting : s.pool.waiting = before ++ (i, q) :: after) (others : ∀ x ∈ before, x.2 ≠ q) :
    s.arbiterPick = some (q, i) := by
  obtain ⟨head, tail, order, first⟩ := roundRobin_split hk hq
  have passed : head.findSome? (arbiterOffer s) = none := List.findSome?_eq_none_iff.mpr fun q' hq' => by
    obtain ⟨j, hj, place⟩ := first q' hq'
    exact arbiterOffer_eq_none.mpr (earlier j hj q' place)
  have taken : arbiterOffer s q = some (q, i) := by
    simp [arbiterOffer, oldest_eq_some waiting others, (eligibleForBuffer_iff s q).mpr may]
  rw [arbiterPick_eq, order, List.findSome?_append, passed, Option.none_or]
  rw [List.findSome?_cons, taken]

/-! ### A pass over the free buffers -/

/-- R102: the free buffers. -/
def freeBuffers (s : State) : Finset BNum := Finset.univ.filter fun b => (s.buffer b).owner = none

theorem freeBuffer_free {b : BNum} (h : s.freeBuffer = some b) : b ∈ freeBuffers s := by
  simpa [freeBuffers] using lowest_some (show lowest _ = some b from h)

theorem freeBuffer_eq_none : s.freeBuffer = none ↔ ∀ b, (s.buffer b).owner ≠ none := by
  simp only [State.freeBuffer, lowest_none, Option.isNone_eq_false_iff, Option.isSome_iff_ne_none]

theorem arbiterGrant_freeBuffers {b : BNum} (free : b ∈ freeBuffers s) :
    (freeBuffers (s.arbiterGrant b q i)).card < (freeBuffers s).card := by
  refine Finset.card_lt_card (Finset.ssubset_iff_of_subset ?_ |>.mpr ⟨b, free, ?_⟩)
  · intro c hc
    have hc : ((s.arbiterGrant b q i).buffer c).owner = none := by simpa [freeBuffers] using hc
    by_cases same : c = b
    · rw [same]; exact free
    · have kept : (s.arbiterGrant b q i).buffer c = s.buffer c := look_upd_ne _ _ _ _ same
      simpa [freeBuffers, kept] using hc
  · have owned : ((s.arbiterGrant b q i).buffer b).owner = some i :=
      congrArg Buffer.owner (look_upd_same ..)
    simp [freeBuffers, owned]

theorem arbiterPass_stops (h : s.arbiterPick = none ∨ s.freeBuffer = none) (n : Nat) : State.arbiterPass n s = (s, []) := by
  cases n with
  | zero => rfl
  | succ n =>
    rcases h with h | h
    · simp [State.arbiterPass, h]
    · simp only [State.arbiterPass, h]
      split <;> simp_all

theorem arbiterPass_grants {b : BNum} (pick : s.arbiterPick = some (q, i)) (free : s.freeBuffer = some b) (n : Nat) :
    State.arbiterPass (n + 1) s
      = ((State.arbiterPass n (s.arbiterGrant b q i)).1, (i, b) :: (State.arbiterPass n (s.arbiterGrant b q i)).2) := by
  simp [State.arbiterPass, pick, free]

/-- R112: a pass of as many grants as there are free buffers ends where none may be made. -/
theorem arbiterPass_ends {n : Nat} (enough : (freeBuffers s).card ≤ n) :
    (State.arbiterPass n s).1.arbiterPick = none ∨ (State.arbiterPass n s).1.freeBuffer = none := by
  induction n generalizing s with
  | zero =>
    refine .inr (freeBuffer_eq_none.mpr fun b (owner : (s.buffer b).owner = none) => ?_)
    have : b ∈ freeBuffers s := by simpa [freeBuffers] using owner
    exact absurd (Finset.card_pos.mpr ⟨b, this⟩) (Nat.not_lt.mpr enough)
  | succ n ih =>
    by_cases h : s.arbiterPick = none ∨ s.freeBuffer = none
    · rw [arbiterPass_stops h]
      exact h
    · obtain ⟨picks, frees⟩ := not_or.mp h
      obtain ⟨⟨q, i⟩, pick⟩ := Option.ne_none_iff_exists'.mp picks
      obtain ⟨b, free⟩ := Option.ne_none_iff_exists'.mp frees
      rw [arbiterPass_grants pick free]
      exact ih (Nat.le_of_lt_succ (lt_of_lt_of_le (arbiterGrant_freeBuffers (freeBuffer_free free)) enough))

end Arbiter

/-- Settles O48: the pick decides a release and each grant of a pass; 128 grants leave no free buffer or no pick. -/
theorem bufferArbitrated : Obligations.BufferArbitrated := by
  refine ⟨fun s b p => ?_, fun s n => ?_, fun s => ?_⟩
  · intro u asks may
    refine ⟨fun nobody => releaseBuffer_free s b p (arbiterPick_eq_none.mpr nobody), ?_⟩
    intro k q i before after hk hq earlier mayTake waiting others
    have pick : (s.freeUp b p).arbiterPick = some (q, i) := arbiterPick_eq_some hk hq earlier mayTake waiting others
    exact (releaseBuffer_grant s b p q i pick).trans rfl
  · intro asks
    refine ⟨fun h => arbiterPass_stops (h.imp arbiterPick_eq_none.mpr freeBuffer_eq_none.mpr) n, ?_⟩
    intro k q i before after b hk hq earlier mayTake waiting others free granted
    exact arbiterPass_grants (arbiterPick_eq_some hk hq earlier mayTake waiting others) (freeBuffer_of_lowest free) n
  · have enough : (freeBuffers s).card ≤ 128 := (Finset.card_le_univ _).trans (by simp)
    refine (arbiterPass_ends enough).symm.imp freeBuffer_eq_none.mp fun none i q waits => ?_
    exact arbiterPick_eq_none.mp none q ⟨i, waits⟩

end Sys2Proof.Machine.Proofs
end

section
/-! The checks on a card operand and of a member's start (R14 to R16, R68 to R71, R78): O36. -/

namespace Sys2Proof.Machine.Proofs

open Laws

/-! ### The checks on an operand -/

section Operand
variable {s : State} {p : PNum} {len : Nat} {o : CardOperand} {w : WNum}

/-- R14: what the operand's use asks of the window's access right. -/
theorem permitted_iff {access : Access} : o.permitted access = true
    ↔ if o.writes = true then access = .write ∨ access = .readWrite else access = .read ∨ access = .readWrite := by
  unfold CardOperand.permitted
  cases o.writes <;> cases access <;> decide

variable (named : o.window = w.val)
include named

/-- R14: the tests on an operand that names a window. -/
theorem checkOperand_named : s.checkOperand p len o
    = if (s.window w).st = .opened ∨ (s.window w).st = .locked then
        if (s.window w).owner = some p then
          if (s.window w).length < o.offset + len then .error (.window, detailBounds)
          else if o.permitted (s.window w).access = true then .ok (w, { base := (s.window w).cardBase + o.offset, len })
          else .error (.window, detailPermission)
        else .error (.window, detailNotOwner)
      else .error (.window, detailNotOpen) := by
  have number : asNum 64 o.window = some w := by rw [named]; exact asNum_val w
  rw [State.checkOperand, number]
  have order : (if ¬(s.window w).owner = some p then (.error (.window, detailNotOwner) : Except Failure (WNum × CardRange))
        else if (s.window w).length < o.offset + len then .error (.window, detailBounds)
        else if !o.permitted (s.window w).access then .error (.window, detailPermission)
        else .ok (w, { base := (s.window w).cardBase + o.offset, len }))
      = if (s.window w).owner = some p then
          if (s.window w).length < o.offset + len then .error (.window, detailBounds)
          else if o.permitted (s.window w).access = true then .ok (w, { base := (s.window w).cardBase + o.offset, len })
          else .error (.window, detailPermission)
        else .error (.window, detailNotOwner) := by
    rw [ite_not]
    cases o.permitted (s.window w).access
    all_goals rfl
  by_cases usable : (s.window w).st = .opened ∨ (s.window w).st = .locked
  · rw [if_pos usable, ← order]
    rcases usable with st | st
    all_goals simp only [st]; rfl
  · rw [if_neg usable]
    simp [not_or.mp usable]

theorem checkOperand_notOpen (h : ¬((s.window w).st = .opened ∨ (s.window w).st = .locked)) :
    s.checkOperand p len o = .error (.window, detailNotOpen) := by
  rw [checkOperand_named named, if_neg h]

variable (usable : (s.window w).st = .opened ∨ (s.window w).st = .locked)
include usable

theorem checkOperand_notOwner (h : (s.window w).owner ≠ some p) :
    s.checkOperand p len o = .error (.window, detailNotOwner) := by
  rw [checkOperand_named named, if_pos usable, if_neg h]

variable (owner : (s.window w).owner = some p)
include owner

theorem checkOperand_bounds (h : (s.window w).length < o.offset + len) :
    s.checkOperand p len o = .error (.window, detailBounds) := by
  rw [checkOperand_named named, if_pos usable, if_pos owner, if_pos h]

variable (inside : o.offset + len ≤ (s.window w).length)
include inside

theorem checkOperand_permission (h : o.permitted (s.window w).access = false) :
    s.checkOperand p len o = .error (.window, detailPermission) := by
  rw [checkOperand_named named, if_pos usable, if_pos owner, if_neg (Nat.not_lt.mpr inside), if_neg (by simp [h])]

theorem checkOperand_passes (h : o.permitted (s.window w).access = true) :
    s.checkOperand p len o = .ok (w, { base := (s.window w).cardBase + o.offset, len }) := by
  rw [checkOperand_named named, if_pos usable, if_pos owner, if_neg (Nat.not_lt.mpr inside), if_pos h]

end Operand

theorem checkOperand_number {s : State} {p : PNum} {len : Nat} {o : CardOperand} (out : 64 ≤ o.window) :
    s.checkOperand p len o = .error (.malformed, detailWindowNumber) := by
  rw [State.checkOperand, asNum_eq_none.mpr out]

/-! ### The format checks -/

section Format
variable {r : SubRecord} {op : Op}

/-- R68: the fields that must be zero, by the operation's number. -/
def FieldsZero (r : SubRecord) : Prop :=
  let op := r.op.toNat
  let noSecondary := r.secondaryWindow = 0 ∧ r.secondaryOffset = 0
  r.reservedLow = 0 ∧ r.reservedHigh = 0
    ∧ (op = 0 → r.hostAddr = 0 ∧ (r.primaryWindow = 0 ∧ r.primaryOffset = 0) ∧ noSecondary ∧ r.pattern = 0)
    ∧ (op = 1 ∨ op = 2 → noSecondary ∧ r.pattern = 0)
    ∧ (op = 3 → r.hostAddr = 0 ∧ r.pattern = 0)
    ∧ (op = 4 → r.hostAddr = 0 ∧ noSecondary)
    ∧ (op = 5 → r.hostAddr = 0 ∧ noSecondary ∧ r.pattern.toNat < 2 ^ 32)

/-- R70: the length and the host range, by the operation's number. -/
def LengthFits (r : SubRecord) : Prop :=
  if r.op.toNat = 0 then r.length.toNat = 0
  else 1 ≤ r.length.toNat ∧ r.length.toNat ≤ 16777216
    ∧ (r.op.toNat = 1 ∨ r.op.toNat = 2 → r.hostAddr.toNat + r.length.toNat ≤ 2 ^ 64)

/-- The number of an operation (R67). -/
def opNumber : Op → Nat
  | .mark => 0 | .copyIn => 1 | .copyOut => 2 | .move => 3 | .fill => 4 | .digest => 5

theorem opOf_eq_some_iff : opOf r = some op ↔ r.op.toNat = opNumber op := by
  unfold opOf
  constructor
  · intro h
    split at h <;> cases h <;> assumption
  · intro h
    rw [h]
    cases op <;> rfl

theorem opOf_eq_none (h : 6 ≤ r.op.toNat) : opOf r = none := by
  cases named : opOf r with
  | none => rfl
  | some op =>
    have number := opOf_eq_some_iff.mp named
    cases op <;> simp only [opNumber] at number <;> omega

theorem exists_opOf (h : r.op.toNat < 6) : ∃ op, opOf r = some op := by
  have inRange (op : Op) (number : r.op.toNat = opNumber op) : ∃ op, opOf r = some op := ⟨op, opOf_eq_some_iff.mpr number⟩
  obtain e | e | e | e | e | e : r.op.toNat = 0 ∨ r.op.toNat = 1 ∨ r.op.toNat = 2 ∨ r.op.toNat = 3 ∨ r.op.toNat = 4
      ∨ r.op.toNat = 5 := by omega
  · exact inRange .mark e
  · exact inRange .copyIn e
  · exact inRange .copyOut e
  · exact inRange .move e
  · exact inRange .fill e
  · exact inRange .digest e

theorem flags_free_iff {flags : BitVec 8} : flags &&& 0xF8 ≠ 0 ↔ 8 ≤ flags.toNat := by
  revert flags
  decide

theorem pattern_high_zero_iff {pattern : BitVec 64} : pattern >>> 32 = 0#64 ↔ pattern.toNat < 4294967296 := by
  rw [← BitVec.toNat_inj, BitVec.toNat_ushiftRight, Nat.shiftRight_eq_div_pow]
  exact Nat.div_eq_zero_iff_lt (by decide)

theorem fieldsZero_iff (h : opOf r = some op) :
    (decide (r.reservedLow = 0) && decide (r.reservedHigh = 0) && zeroFieldsOk r op) = true ↔ FieldsZero r := by
  have number := opOf_eq_some_iff.mp h
  unfold FieldsZero
  dsimp only
  rw [number]
  cases op <;> simp [zeroFieldsOk, opNumber, pattern_high_zero_iff, and_assoc]

theorem lengthFits_iff (h : opOf r = some op) : lengthOk r op = true ↔ LengthFits r := by
  have number := opOf_eq_some_iff.mp h
  unfold LengthFits
  rw [number]
  have bound : Config.maxTransfer = 16777216 := rfl
  cases op <;> simp [lengthOk, opNumber, bound, and_assoc]

/-- R68 to R70: the format checks of a record whose operation is known. -/
theorem formatCheck_named (h : opOf r = some op) : formatCheck r
    = if r.flags &&& 0xF8 ≠ 0 then .error (.malformed, detailFlags)
      else if (decide (r.reservedLow = 0) && decide (r.reservedHigh = 0) && zeroFieldsOk r op) = true then
        if lengthOk r op = true then .ok op else .error (.malformed, detailLength)
      else .error (.malformed, detailReserved) := by
  rw [formatCheck, h]
  dsimp only
  generalize (decide (r.reservedLow = 0) && decide (r.reservedHigh = 0) && zeroFieldsOk r op) = zero
  cases zero
  · rfl
  · cases lengthOk r op
    all_goals rfl

theorem formatCheck_flags (h : opOf r = some op) (flags : 8 ≤ r.flags.toNat) : formatCheck r = .error (.malformed, detailFlags) := by
  rw [formatCheck_named h, if_pos (flags_free_iff.mpr flags)]

variable (h : opOf r = some op) (flags : r.flags.toNat < 8)
include h flags

theorem formatCheck_reserved (bad : ¬FieldsZero r) : formatCheck r = .error (.malformed, detailReserved) := by
  rw [formatCheck_named h, if_neg (mt flags_free_iff.mp (Nat.not_le.mpr flags)), if_neg (mt (fieldsZero_iff h).mp bad)]

variable (zero : FieldsZero r)
include zero

theorem formatCheck_length (bad : ¬LengthFits r) : formatCheck r = .error (.malformed, detailLength) := by
  rw [formatCheck_named h, if_neg (mt flags_free_iff.mp (Nat.not_le.mpr flags)), if_pos ((fieldsZero_iff h).mpr zero),
    if_neg (mt (lengthFits_iff h).mp bad)]

theorem formatCheck_passes (fits : LengthFits r) : formatCheck r = .ok op := by
  rw [formatCheck_named h, if_neg (mt flags_free_iff.mp (Nat.not_le.mpr flags)), if_pos ((fieldsZero_iff h).mpr zero),
    if_pos ((lengthFits_iff h).mpr fits)]

end Format

/-! ### The start of a member -/

section Start
variable {s : State} {p : PNum} {r : SubRecord} {op : Op}

theorem startCheck_malformed {e : Failure} (h : formatCheck r = .error e) : s.startCheck p r = .error e := by
  simp only [State.startCheck, h]

/-- R14: every operation but MARK has a primary operand, and writes it or reads it. -/
theorem primaryOperand_eq (notMark : op ≠ .mark) : primaryOperand r op
    = some ⟨r.primaryWindow.toNat, r.primaryOffset.toNat,
        decide (opNumber op = 1 ∨ opNumber op = 3 ∨ opNumber op = 4)⟩ := by
  cases op with
  | mark => exact absurd rfl notMark
  | _ => rfl

/-- R14: a MOVE alone has a secondary operand. -/
theorem secondaryOperand_eq_none (notMove : op ≠ .move) : secondaryOperand r op = none := by
  cases op with
  | move => exact absurd rfl notMove
  | _ => rfl

section Passed
variable {o o2 : CardOperand} {e : Failure} {w w2 : WNum} {range range2 : CardRange} (format : formatCheck r = .ok op)
  (primary : primaryOperand r op = some o)
include format primary

theorem startCheck_primaryFails (fails : s.checkOperand p r.length.toNat o = .error e) : s.startCheck p r = .error e := by
  simp only [State.startCheck, format, primary, fails]

variable (passed : s.checkOperand p r.length.toNat o = .ok (w, range))
include passed

theorem startCheck_single (single : secondaryOperand r op = none) :
    s.startCheck p r = .ok { op, primary := some range, secondary := none, refs := [w] } := by
  simp only [State.startCheck, format, primary, passed, single]

variable (secondary : secondaryOperand r op = some o2)
include secondary

theorem startCheck_secondaryFails (fails : s.checkOperand p r.length.toNat o2 = .error e) : s.startCheck p r = .error e := by
  simp only [State.startCheck, format, primary, passed, secondary, fails]

variable (passed2 : s.checkOperand p r.length.toNat o2 = .ok (w2, range2))
include passed2

theorem startCheck_meet (meet : overlaps range.base range.len range2.base range2.len = true) :
    s.startCheck p r = .error (.malformed, detailOverlap) := by
  simp only [State.startCheck, format, primary, passed, secondary, passed2, meet, if_true]

theorem startCheck_apart (apart : overlaps range.base range.len range2.base range2.len = false) :
    s.startCheck p r = .ok { op, primary := some range, secondary := some range2, refs := [w, w2] } := by
  simp only [State.startCheck, format, primary, passed, secondary, passed2, apart]
  rfl

end Passed

end Start

/-- Settles O36: each check is reached when those before it pass. -/
theorem operandsChecked : Obligations.OperandsChecked := by
  constructor
  · intro s p len o result
    refine ⟨checkOperand_number, fun w named => ?_⟩
    intro y usable inside granted
    have permits : granted ↔ o.permitted y.access = true := permitted_iff.symm
    exact ⟨checkOperand_notOpen named, checkOperand_notOwner named,
      fun usable owner outside => checkOperand_bounds named usable owner (Nat.not_le.mp outside),
      fun usable owner inside refused => checkOperand_permission named usable owner inside
        (Bool.eq_false_iff.mpr (mt permits.mpr refused)),
      fun usable owner inside granted => checkOperand_passes named usable owner inside (permits.mp granted)⟩
  · intro s p r result op n noPrimary noSecondary zeros fits wellFormed first second
    have passes (h : wellFormed) {named : Op} (isOp : opOf r = some named) : formatCheck r = .ok named :=
      formatCheck_passes isOp h.2.1 h.2.2.1 h.2.2.2
    have primary {named : Op} (isOp : opOf r = some named) (notMark : op ≠ 0) : primaryOperand r named
        = some ⟨r.primaryWindow.toNat, r.primaryOffset.toNat, decide (op = 1 ∨ op = 3 ∨ op = 4)⟩ := by
      have number : op = opNumber named := opOf_eq_some_iff.mp isOp
      have operand := primaryOperand_eq (r := r) (op := named) (by rintro rfl; exact notMark number)
      rwa [← number] at operand
    refine ⟨fun out => startCheck_malformed ?_, fun known flags => ?_, fun known flags bad => ?_, fun known flags zero bad => ?_,
      fun h mark => ?_, fun e h notMark fails => ?_, fun w range named h notMark notMove passed isOp => ?_,
      fun w range e h move passed fails => ?_, fun w range w2 range2 h move passed passed2 => ?_⟩
    · simp only [formatCheck, opOf_eq_none out]
      rfl
    · obtain ⟨named, isOp⟩ := exists_opOf known
      exact startCheck_malformed (formatCheck_flags isOp flags)
    · obtain ⟨named, isOp⟩ := exists_opOf known
      exact startCheck_malformed (formatCheck_reserved isOp flags bad)
    · obtain ⟨named, isOp⟩ := exists_opOf known
      exact startCheck_malformed (formatCheck_length isOp flags zero bad)
    · have isOp : opOf r = some .mark := opOf_eq_some_iff.mpr mark
      show s.startCheck p r = _
      simp only [State.startCheck, passes h isOp, primaryOperand]
    · obtain ⟨named, isOp⟩ := exists_opOf h.1
      exact startCheck_primaryFails (passes h isOp) (primary isOp notMark) fails
    · have single : secondaryOperand r named = none :=
        secondaryOperand_eq_none (by rintro rfl; exact notMove (opOf_eq_some_iff.mp isOp))
      exact startCheck_single (passes h isOp) (primary isOp notMark) passed single
    · have isOp : opOf r = some .move := opOf_eq_some_iff.mpr move
      exact startCheck_secondaryFails (passes h isOp) (primary isOp (move ▸ by decide)) passed rfl fails
    · have isOp : opOf r = some .move := opOf_eq_some_iff.mpr move
      intro meet
      have meets : meet ↔ overlaps range.base range.len range2.base range2.len = true := by
        rw [overlaps, Bool.and_eq_true, decide_eq_true_iff, decide_eq_true_iff]
      have first := primary isOp (move ▸ by decide)
      exact ⟨fun h' => startCheck_meet (passes h isOp) first passed rfl passed2 (meets.mp h'),
        fun h' => startCheck_apart (passes h isOp) first passed rfl passed2 (Bool.eq_false_iff.mpr (mt meets.mpr h'))⟩

end Sys2Proof.Machine.Proofs
end

section
/-! How the inner events of a step are worked off where no table entry is bad (R192): a chain of them ends in the state that the single
events lead to, one after the other; and what each kind of inner event does in each of the ways it can go. -/

namespace Sys2Proof.Machine.Proofs

open Laws

/-! ### Chains of inner events -/

/-- Read without parity errors, the inner events `ws` of `s` end in `t` after at most `k` of them, each with those it brings about
before the next (notes/assumptions/9.md). -/
inductive Settles : Nat → State → List Work → State → Prop
  | nil (k : Nat) (s : State) : Settles k s [] s
  | cons {k : Nat} {s u t : State} {w : Work} {more ws : List Work} (event : s.doWork w = (u, more))
      (rest : Settles k u (more ++ ws) t) : Settles (k + 1) s (w :: ws) t

theorem settles_nil (s : State) : Settles 0 s [] s := .nil 0 s

/-- The front event is carried out, and those it brings about come next. -/
theorem settles_cons {k : Nat} {s u t : State} {w : Work} {more ws : List Work} (event : s.doWork w = (u, more))
    (rest : Settles k u (more ++ ws) t) : Settles (k + 1) s (w :: ws) t := .cons event rest

theorem Settles.mono {k l : Nat} {s t : State} {ws : List Work} (chain : Settles k s ws t) (small : k ≤ l) : Settles l s ws t := by
  induction chain generalizing l with
  | nil k s => exact .nil l s
  | cons event _ ih =>
    obtain ⟨l, rfl⟩ : ∃ m, l = m + 1 := ⟨l - 1, by omega⟩
    exact .cons event (ih (by omega))

/-- Events that wait behind others are taken when those have settled. -/
theorem Settles.append {k l : Nat} {s u t : State} {ws others : List Work} (chain : Settles k s ws u) (rest : Settles l u others t) :
    Settles (k + l) s (ws ++ others) t := by
  induction chain with
  | nil k s => exact rest.mono (Nat.le_add_left ..)
  | @cons k s u t w more ws event _ ih =>
    rw [Nat.add_right_comm]
    exact .cons (ws := ws ++ others) event (List.append_assoc more ws others ▸ ih rest)

/-- In a state without bad table entries, outside HALTED, the inner events of a step end where their chain ends (R192). -/
theorem Settles.settle_eq {k n : Nat} {d : Device} {s t : State} {ws : List Work} (chain : Settles k s ws t) (outsideHalted : d.st ≠ .halted)
    (intact : Intact d s) (small : k ≤ n) : State.settle n s ws = t := by
  induction chain generalizing n with
  | nil k s => exact settle_nil n s
  | @cons k s u t w more ws event _ ih =>
    obtain ⟨n, rfl⟩ : ∃ m, n = m + 1 := ⟨n - 1, by omega⟩
    obtain ⟨device, slots, windows, parts⟩ := id intact
    have live : s.halted = false := decide_eq_false (device ▸ outsideHalted)
    have kept : Intact d u := by
      have := intact.doWork w
      rwa [event] at this
    rw [settle_cons, workStep_allGood slots windows parts w live, event]
    exact ih kept (by omega)

section Ends
variable {d : Device} {k before o : Nat} {tag : Tag} {s u t : State} {ws : List Work} (intact : Intact d u)
  (outsideHalted : d.st ≠ .halted) (chain : Settles k u ws t) (small : k ≤ Config.innerBound)
include intact outsideHalted chain small

theorem settle_chain : State.settle Config.innerBound u ws = t := chain.settle_eq outsideHalted intact small

theorem intact_chain : Intact d t := settle_chain intact outsideHalted chain small ▸ intact.settle outsideHalted _ _

/-- A step outside STOPPING ends where its inner events end, the watermark re-evaluated. -/
theorem finish_chain (notStopping : d.st ≠ .stopping) : u.finish before ws = t.reevaluate before := by
  obtain ⟨device, -⟩ : Intact d (t.reevaluate before) :=
    (intact_reevaluate _).mpr (intact_chain intact outsideHalted chain small)
  rw [State.finish, settle_chain intact outsideHalted chain small]
  exact endStop_of_not_stopping _ (decide_eq_false (device ▸ notStopping))

/-- A command whose inner events settle completes OK after them. -/
theorem conclude_chain : State.conclude before o tag (u.accept ws) = (t.reevaluate before).adminComplete o tag .ok 0 := by
  obtain ⟨device, -⟩ : Intact d (t.reevaluate before) :=
    (intact_reevaluate _).mpr (intact_chain intact outsideHalted chain small)
  have live : (t.reevaluate before).halted = false := decide_eq_false (device ▸ outsideHalted)
  unfold State.conclude State.accept
  dsimp only
  rw [settle_chain intact outsideHalted chain small, live]
  rfl

end Ends

/-! ### The slot that acts -/

section PutSlot
variable {s : State} {i : SNum} {x : Slot}

/-- The state with entry `i` of the slot memory holding `x`. -/
def putSlot (s : State) (i : SNum) (x : Slot) : State := s.withSlot i fun _ => x

theorem withSlot_eq_putSlot (f : Slot → Slot) : s.withSlot i f = putSlot s i (f (s.slot i)) := (rfl)

@[simp] theorem putSlot_slot : (putSlot s i x).slot i = x := withSlot_slot_same ..

theorem putSlot_slot_ne {j : SNum} (h : j ≠ i) : (putSlot s i x).slot j = s.slot j := withSlot_slot_ne _ _ _ _ h

/-- A slot that holds what it held already. -/
theorem putSlot_self : putSlot s i (s.slot i) = s := congrArg (fun slots => { s with slots }) (upd_eq_self _ _ _ rfl)

theorem putSlot_putSlot (y : Slot) : putSlot (putSlot s i x) i y = putSlot s i y := by
  refine congrArg (fun slots => { s with slots }) (table_ext _ _ fun j => ?_)
  by_cases same : j = i
  · subst same
    simp
  · exact (look_upd_ne _ _ _ _ same).trans ((look_upd_ne _ _ _ _ same).trans (look_upd_ne _ _ _ _ same).symm)

@[simp] theorem putSlot_withSlot (f : Slot → Slot) : (putSlot s i x).withSlot i f = putSlot s i (f x) := by
  rw [withSlot_eq_putSlot, putSlot_slot, putSlot_putSlot]

end PutSlot

/-! ### The start of chunks -/

section StartChunk
variable {s : State} {i : SNum} {x : Slot} {c : MemberCtx} {r : SubRecord} {b : Option BNum} {range : CardRange}

/-- R80: the slot with its next chunk just started. -/
def withChunk (x : Slot) (c : MemberCtx) (r : SubRecord) (phase : Phase) (b : Option BNum) (requests : Nat) : Slot :=
  { x with
    chunks := x.chunks ++ [newChunk c.next (chunkLen r.length.toNat c.next) phase b requests]
    ctx := some { c with next := c.next + 1 } }

/-- R83 to R87: the range that the first card access of a chunk goes to, the phase it stands in then, and the bytes it writes. -/
def firstAccess (c : MemberCtx) (r : SubRecord) : Op → Option CardRange × Phase × Option (List Byte)
  | .mark | .copyIn => (none, .reading, none)
  | .copyOut | .digest => (c.primary, .reading, none)
  | .move => (c.secondary, .reading, none)
  | .fill => (c.primary, .writing, some (fillData r (chunkLen r.length.toNat c.next)))

theorem startChunk_issues {op : Op} {phase : Phase} {write : Option (List Byte)}
    (access : firstAccess c r op = (some range, phase, write))
    (clear : FenceClear s (range.base + 2048 * c.next) (chunkLen r.length.toNat c.next)) :
    (putSlot s i x).startChunk i c r op b
      = (putSlot (s.withAccess i c.next (range.base + 2048 * c.next) (chunkLen r.length.toNat c.next) write) i
          (withChunk x c r phase b 0), [.startChunks i]) := by
  have passes (w : Option (List Byte)) : (putSlot s i x).presentAccess i c.next (range.at c.next) (chunkLen r.length.toNat c.next) w
      = .ok (putSlot (s.withAccess i c.next (range.base + 2048 * c.next) (chunkLen r.length.toNat c.next) w) i x) :=
    presentAccess_issued (putSlot s i x) _ _ _ _ _ (fenceHit_of_clear clear)
  rcases c with ⟨primary, secondary, refs, count, next, doneChunks, doneAhead, crc⟩
  cases op <;> simp only [firstAccess, Prod.mk.injEq, reduceCtorEq, false_and] at access
  all_goals
    obtain ⟨rfl, rfl, rfl⟩ := access
    simp only [State.startChunk, passes, putSlot_withSlot]
    rfl

theorem startChunk_fenced {op : Op} {phase : Phase} {write : Option (List Byte)} {f : FNum}
    (access : firstAccess c r op = (some range, phase, write))
    (stops : FenceStops s (range.base + 2048 * c.next) (chunkLen r.length.toNat c.next) f) :
    (putSlot s i x).startChunk i c r op b = (putSlot s i (withChunk x c r .held b 0), [.fail i .fenced f.val]) := by
  have refused (w : Option (List Byte)) : (putSlot s i x).presentAccess i c.next (range.at c.next) (chunkLen r.length.toNat c.next) w
      = .error f := presentAccess_stopped (putSlot s i x) _ _ _ _ _ _ (fenceHit_of_stops stops)
  rcases c with ⟨primary, secondary, refs, count, next, doneChunks, doneAhead, crc⟩
  cases op <;> simp only [firstAccess, Prod.mk.injEq, reduceCtorEq, false_and] at access
  all_goals
    obtain ⟨rfl, rfl, rfl⟩ := access
    simp only [State.startChunk, refused, putSlot_withSlot]
    rfl

theorem startChunk_copyIn :
    let addr := r.hostAddr + BitVec.ofNat 64 (2048 * c.next)
    let asked := readRequests (.copyIn i c.next) addr (chunkLen r.length.toNat c.next)
    (putSlot s i x).startChunk i c r .copyIn b
      = (putSlot (s.withLink fun l => { l with queue := l.queue ++ asked }) i (withChunk x c r .reading b asked.length),
          [.startChunks i]) := by
  simp only [State.startChunk, putSlot_withSlot]
  rfl

variable {op : Op} (ctx : x.ctx = some c) (member : x.member = some r) (named : opOf r = some op)
include ctx member named

theorem startChunks_ends (no : x.mayStart c = false) : (putSlot s i x).startChunks i = (putSlot s i x, []) := by
  simp [State.startChunks, ctx, member, Slot.op, named, no]

theorem startChunks_unbuffered (may : x.mayStart c = true) (plain : op.needsBuffer = false) :
    (putSlot s i x).startChunks i = (putSlot s i x).startChunk i c r op none := by
  simp [State.startChunks, ctx, member, Slot.op, named, may, plain]

theorem startChunks_buffered {b : BNum} (may : x.mayStart c = true) (needs : op.needsBuffer = true)
    (eligible : MayTake s x.partition) (free : LowestFree s b) :
    (putSlot s i x).startChunks i = (putSlot (s.withBufferGranted b i x.partition) i x).startChunk i c r op (some b) := by
  have eligible : (putSlot s i x).eligibleForBuffer x.partition = true := (eligibleForBuffer_iff s _).mpr eligible
  have free : (putSlot s i x).freeBuffer = some b := freeBuffer_of_lowest free
  simp only [State.startChunks, putSlot_slot, ctx, member, Slot.op, named, may, needs, eligible, free, Option.bind_some, if_true]
  rfl

theorem startChunks_waits (may : x.mayStart c = true) (needs : op.needsBuffer = true) (refused : ¬MayTake s x.partition)
    (none : x.chunks = []) : (putSlot s i x).startChunks i = ((putSlot s i x).waitForBuffer i x.partition, []) := by
  have refused : (putSlot s i x).eligibleForBuffer x.partition = false :=
    Bool.eq_false_iff.mpr (mt (eligibleForBuffer_iff s _).mp refused)
  simp [State.startChunks, ctx, member, Slot.op, named, may, needs, refused, none]

theorem startChunks_refused (needs : op.needsBuffer = true) (refused : ¬MayTake s x.partition) (some : x.chunks ≠ []) :
    (putSlot s i x).startChunks i = (putSlot s i x, []) := by
  have refused : (putSlot s i x).eligibleForBuffer x.partition = false :=
    Bool.eq_false_iff.mpr (mt (eligibleForBuffer_iff s _).mp refused)
  simp [State.startChunks, ctx, member, Slot.op, named, needs, refused, some]

/-- R93: the slot that has been granted a buffer runs again and starts its chunk. -/
theorem takeGrant_starts {b : BNum} (waits : x.st = .waitBuffer) :
    (putSlot s i x).takeGrant i b = (putSlot s i { x with st := .running }).startChunk i c r op (some b) := by
  simp [State.takeGrant, ctx, member, Slot.op, named, waits]

end StartChunk

end Sys2Proof.Machine.Proofs
end

section
/-! POOL_SET and the re-evaluation of the watermark (R105, R112, R115, R117): O31. -/

namespace Sys2Proof.Machine.Proofs

open Laws

section PoolSet
variable {s : State} {n : TNum} {tag : Tag} {q r l : BitVec 8} {p : PNum}

theorem poolParamsOk_iff : poolParamsOk r.toNat l.toNat = true
    ↔ r.toNat ≤ 96 ∧ 1 ≤ l.toNat ∧ l.toNat ≤ 128 ∧ r.toNat ≤ l.toNat := by
  simp only [poolParamsOk, Bool.and_eq_true, decide_eq_true_iff, and_assoc]
  rfl

theorem exec_poolSet_illegal (ready : CommandReady s n) (illegal : 16 ≤ q.toNat ∨ poolParamsOk r.toNat l.toNat = false) :
    exec (.poolSet tag false q r l) s = .next ((s.taken n).adminComplete 0x20 tag .badParam 0) :=
  (returnCommand_ready ready _).trans (congrArg Host.Outcome.next (executePart_refused (illegal.imp_right fun bad => by rw [bad]; rfl)))

theorem exec_poolSet_legal (ready : CommandReady s n) (hq : q.toNat = p.val) (legal : poolParamsOk r.toNat l.toNat = true) :
    exec (.poolSet tag false q r l) s
      = .next (State.conclude (s.taken n).sharedFree 0x20 tag ((s.taken n).setPool p r.toNat l.toNat)) := by
  obtain ⟨-, -, slots, windows, parts⟩ := id ready
  refine (returnCommand_ready ready _).trans (congrArg Host.Outcome.next ?_)
  rw [State.runPoolSet, legal]
  exact executePart_freed (fun s p => s.setPool p r.toNat l.toNat) hq
    (poolSetReads_good (s := s.withTag n fun _ => .free) slots windows parts p r.toNat)

theorem setPool_notQuiesced (h : (s.part p).st ≠ .quiesced) {reserve limit : Nat} : s.setPool p reserve limit = s.refuse .state := by
  simp [State.setPool, h]

section Quiesced
variable (quiesced : (s.part p).st = .quiesced) {reserve limit : Nat}
include quiesced

theorem deficit_quiesced : (s.part p).deficit = (s.part p).reserve - (s.part p).held := by
  simp [Partition.deficit, Partition.isOpen, quiesced]

theorem setPool_busy (short : s.sharedFree + ((s.part p).reserve - (s.part p).held) < reserve) :
    s.setPool p reserve limit = s.refuse .poolBusy := by
  simp [State.setPool, quiesced, deficit_quiesced quiesced, short]

variable (room : reserve ≤ s.sharedFree + ((s.part p).reserve - (s.part p).held))
include room

theorem setPool_limit (above : 96 < s.otherReserves p + reserve) : s.setPool p reserve limit = s.refuse .limit := by
  have : Config.reserveSum < s.otherReserves p + reserve := above
  simp [State.setPool, quiesced, deficit_quiesced quiesced, Nat.not_lt.mpr room, this]

theorem setPool_sets (below : s.otherReserves p + reserve ≤ 96) : s.setPool p reserve limit
    = (s.withPart p fun y => { y with reserve, limit }).accept (if reserve < (s.part p).reserve then [.pass] else []) := by
  have : ¬Config.reserveSum < s.otherReserves p + reserve := Nat.not_lt.mpr below
  simp [State.setPool, quiesced, deficit_quiesced quiesced, Nat.not_lt.mpr room, this]

end Quiesced

/-- The sum of the other reserves in the words of the statement. -/
theorem otherReserves_eq : s.otherReserves p = total fun k : PNum => if k = p ∨ (s.part k).st = .closed then 0 else (s.part k).reserve := by
  refine congrArg total (funext fun k => ?_)
  by_cases same : k = p <;> by_cases h : (s.part k).st = .closed <;> simp [same, h, Partition.isOpen]

/-- R111: whom the arbiter picks waits for a buffer. -/
theorem arbiterPick_waits {i : SNum} (h : s.arbiterPick = some (p, i)) : (i, p) ∈ s.pool.waiting := by
  rw [arbiterPick_eq] at h
  obtain ⟨k, -, offered⟩ := List.exists_of_findSome?_eq_some h
  obtain ⟨j, oldest, taken⟩ := Option.bind_eq_some_iff.mp offered
  split at taken
  next =>
    obtain ⟨rfl, rfl⟩ := Prod.mk.inj (Option.some.inj taken)
    obtain ⟨w, found, rfl⟩ := Option.map_eq_some_iff.mp oldest
    obtain rfl : w.2 = k := by simpa using List.find?_some found
    exact List.mem_of_find?_eq_some found
  next => cases taken

/-- R111, R112: with one requester, which may take a buffer, a pass grants it the lowest free one and ends. -/
theorem arbiterPass_one {i : SNum} {b : BNum} (waiting : s.pool.waiting = [(i, p)]) (may : MayTake s p) (free : LowestFree s b)
    (m : Nat) : State.arbiterPass (m + 1) s
      = ((s.withBufferGranted b i p).withPool fun q => { q with waiting := [], pointer := p }, [(i, b)]) := by
  have pick : s.arbiterPick = some (p, i) := by
    cases h : s.arbiterPick with
    | none => exact absurd may (arbiterPick_eq_none.mp h p ⟨i, by rw [waiting]; exact List.mem_singleton_self _⟩)
    | some pick =>
      have waits := arbiterPick_waits h
      rw [waiting, List.mem_singleton] at waits
      exact congrArg some (Prod.ext (congrArg Prod.snd waits) (congrArg Prod.fst waits))
  have emptied : s.pool.waiting.filter (fun w => decide (w.1 ≠ i)) = [] := by
    rw [waiting]
    simp
  have granted : s.arbiterGrant b p i = (s.withBufferGranted b i p).withPool fun q => { q with waiting := [], pointer := p } := by
    rw [← emptied]
    rfl
  rw [arbiterPass_grants pick (freeBuffer_of_lowest free), granted, arbiterPass_empty m _ rfl]

/-- R112, R93, R81: the pass whose one requester is a COPY_OUT with its last chunk to start. -/
theorem settles_passCopyOut {i : SNum} {k : PNum} {b : BNum} {m : MemberCtx} {record : SubRecord} {range : CardRange}
    (waiting : s.pool.waiting = [(i, k)]) (may : MayTake s k) (free : LowestFree s b) (waits : (s.slot i).st = .waitBuffer)
    (ctx : (s.slot i).ctx = some m) (member : (s.slot i).member = some record) (chunks : (s.slot i).chunks = [])
    (copyOut : record.op = 2) (primary : m.primary = some range) (last : m.count = m.next + 1)
    (clear : FenceClear s (range.base + 2048 * m.next) (min 2048 (record.length.toNat - 2048 * m.next))) :
    Settles 3 s [.pass] ((((s.withBufferGranted b i k).withPool fun q => { q with waiting := [], pointer := k }).withSlot i fun x =>
      { x with
        st := .running
        ctx := some { m with next := m.next + 1 }
        chunks := [{ chunk := m.next, size := min 2048 (record.length.toNat - 2048 * m.next), phase := .reading, buffer := some b,
                     requests := 0, part := none, discard := false }] }).withAccess i m.next (range.base + 2048 * m.next)
        (min 2048 (record.length.toNat - 2048 * m.next)) none) := by
  have named : opOf record = some .copyOut := opOf_eq_some_iff.mpr (by rw [copyOut]; rfl)
  let u := (s.withBufferGranted b i k).withPool fun q => { q with waiting := [], pointer := k }
  let x := { s.slot i with st := .running }
  have pass : s.doWork .pass = (putSlot u i (s.slot i), [.grant i b]) := by
    have granted := arbiterPass_one waiting may free 127
    show ((State.arbiterPass 128 s).1, (State.arbiterPass 128 s).2.map fun g => Work.grant g.1 g.2) = _
    rw [granted, show s.slot i = u.slot i from rfl, putSlot_self]
    rfl
  have starts : (putSlot u i x).startChunk i m record .copyOut (some b) = _ :=
    startChunk_issues (op := .copyOut) (congrArg (·, Phase.reading, none) primary) clear
  have grant : (putSlot u i (s.slot i)).doWork (.grant i b) = _ := (takeGrant_starts ctx member named waits).trans starts
  have ends := startChunks_ends (s := u.withAccess i m.next (range.base + 2048 * m.next) (chunkLen record.length.toNat m.next) none)
    (i := i) (x := withChunk x m record .reading (some b) 0) rfl member named (by simp [Slot.mayStart, last])
  have chain := settles_cons pass (settles_cons grant (settles_cons ends (settles_nil _)))
  rw [withChunk, show x.chunks = [] from chunks] at chain
  exact chain

/-- R115: an accepted POOL_SET whose inner events settle. -/
theorem exec_poolSet_sets {k : Nat} {t : State} {ws : List Work} (ready : CommandReady s n) (hq : q.toNat = p.val)
    (legal : poolParamsOk r.toNat l.toNat = true)
    (sets : (s.taken n).setPool p r.toNat l.toNat = ((s.taken n).withPart p fun y => { y with reserve := r.toNat, limit := l.toNat }).accept ws)
    (chain : Settles k ((s.taken n).withPart p fun y => { y with reserve := r.toNat, limit := l.toNat }) ws t)
    (small : k ≤ Config.innerBound) :
    exec (.poolSet tag false q r l) s = .next ((t.reevaluate s.sharedFree).adminComplete 0x20 tag .ok 0) := by
  have intact : Intact s.device ((s.taken n).withPart p fun y => { y with reserve := r.toNat, limit := l.toNat }) :=
    (intact_withPart (s := s.taken n) p (fun y => { y with reserve := r.toNat, limit := l.toNat }) fun _ => rfl).mpr
      ⟨rfl, ready.2.2⟩
  have outsideHalted : s.device.st ≠ .halted := of_decide_eq_false (taken_not_halted ready)
  rw [exec_poolSet_legal ready hq legal, sets, conclude_chain intact outsideHalted chain small]
  rfl

end PoolSet

/-- Settles O31: the tests of R115 in their order, the pass with nobody to serve and with the one COPY_OUT, and the evaluation. -/
theorem poolShareSet : Obligations.PoolShareSet := by
  refine ⟨fun s n tag q r l ready => ?_, fun s before => ?_⟩
  · intro u run legal
    have outsideHalted := taken_not_halted ready
    refine ⟨fun illegal => exec_poolSet_illegal ready ?_, fun p hq legal => ?_⟩
    · by_cases hq : q.toNat < 16
      · exact .inr (Bool.eq_false_iff.mpr fun ok => illegal ⟨hq, poolParamsOk_iff.mp ok⟩)
      · exact .inl (Nat.le_of_not_lt hq)
    · intro y others room set
      have paramsOk := poolParamsOk_iff.mpr legal.2
      have refuse {status : AdminStatus} (h : u.setPool p r.toNat l.toNat = u.refuse status) :
          run = .next (u.adminComplete 0x20 tag status 0) := by
        show exec _ s = _
        rw [exec_poolSet_legal ready hq paramsOk]
        exact congrArg Host.Outcome.next ((congrArg (State.conclude _ _ _) h).trans (conclude_refuse _ _ _ _ _ outsideHalted rfl))
      have sum : u.otherReserves p = others := otherReserves_eq
      refine ⟨fun other => refuse (setPool_notQuiesced (s := u) other), fun quiesced short => refuse (setPool_busy (s := u) quiesced short),
        fun quiesced room above => refuse (setPool_limit (s := u) quiesced room (sum.symm ▸ above)),
        fun quiesced room below nobody => ?_, fun i k b m record range quiesced room below lower waiting may free
          waits _ ctx member chunks copyOut primary => ?_⟩
      · refine exec_poolSet_sets ready hq paramsOk (setPool_sets (s := u) quiesced room (sum.symm ▸ below)) (k := 1) ?_ (by decide)
        by_cases lower : r.toNat < (u.part p).reserve
        · have alone := nobody.resolve_left (Nat.not_le.mpr lower)
          have stops : State.arbiterPass 128 set = (set, []) :=
            arbiterPass_stops (.inl (arbiterPick_eq_none.mpr fun k ⟨i, waits⟩ => alone i k waits)) 128
          rw [if_pos lower]
          refine settles_cons (more := []) (u := set) ?_ (settles_nil _)
          show ((State.arbiterPass 128 set).1, (State.arbiterPass 128 set).2.map fun g => Work.grant g.1 g.2) = _
          rw [stops]
          rfl
        · rw [if_neg lower]
          exact .nil 1 _
      · intro last base size clear
        refine exec_poolSet_sets ready hq paramsOk (setPool_sets (s := u) quiesced room (sum.symm ▸ below)) (k := 3) ?_ (by decide)
        rw [if_pos (show r.toNat < (u.part p).reserve from lower)]
        exact settles_passCopyOut (s := set) waiting may free waits ctx member chunks copyOut primary last clear
  · intro f at' judged
    have evaluated : s.evalWatermark = judged := by
      have settled (low : Bool) (h : s.pool.low = low) : (s.withPool fun q => { q with low }) = s := by
        rw [← h]
        rfl
      rw [evalWatermark_of]
      by_cases low : s.pool.low = true
      · rw [if_pos low, settled true low]
        exact (if_pos low).symm
      · rw [if_neg low, settled false (Bool.eq_false_iff.mpr low)]
        exact (if_neg low).symm
    refine ⟨?_, evaluated, fun same => ?_, fun live changed => ?_⟩
    · exact congrArg (s.pool.free - total ·) (funext fun p => deficit_eq _)
    · rcases same with halted | same
      · simp [State.reevaluate, State.halted, halted]
      · exact reevaluate_same _ _ same
    · exact (reevaluate_changed (decide_eq_false live) changed).trans evaluated

end Sys2Proof.Machine.Proofs
end

section
/-! What each inner event does to the slot it acts on, in each of the ways it can go: the start and the end of a member, its failure,
the turns and ends of its chunks, and the group's answer (R77 to R91, R95 to R98). -/

namespace Sys2Proof.Machine.Proofs

open Laws

variable {s : State} {i : SNum} {x : Slot}

/-! ### Operations that leave the slot memory alone -/

theorem setDeferred_putSlot (j : Fin 8) (d : Option Deferred) : (putSlot s i x).setDeferred j d = putSlot (s.setDeferred j d) i x := (rfl)

theorem react_putSlot (n : VNum) (r : Reaction) : (putSlot s i x).react n r = putSlot (s.react n r) i x := by
  unfold State.react
  dsimp only
  split <;> rfl

theorem newRecord_putSlot (n : VNum) (u : Bool) : (putSlot s i x).newRecord n u = putSlot (s.newRecord n u) i x := react_putSlot ..

theorem adminComplete_putSlot (o : Nat) (t : Tag) (a : AdminStatus) (d : Nat) :
    (putSlot s i x).adminComplete o t a d = putSlot (s.adminComplete o t a d) i x := by
  unfold State.adminComplete
  dsimp only
  rw [← newRecord_putSlot]
  rfl

theorem reportDeferred_putSlot (o : DeferOp) (n : Nat) (a : AdminStatus) :
    (putSlot s i x).reportDeferred o n a = putSlot (s.reportDeferred o n a) i x := by
  have same : (putSlot s i x).deferredAt o n = s.deferredAt o n := rfl
  have stands : (putSlot s i x).halted = s.halted := rfl
  unfold State.reportDeferred
  rw [same]
  cases s.deferredAt o n with
  | none => rfl
  | some j =>
    have entry : look (putSlot s i x).admin.deferred j = look s.admin.deferred j := rfl
    dsimp only
    rw [entry]
    cases look s.admin.deferred j with
    | none => rfl
    | some d =>
      dsimp only
      rw [stands]
      split
      · rfl
      · split
        · exact adminComplete_putSlot (s := s.setDeferred j none) ..
        · rfl

theorem dropRef_putSlot (w : WNum) : (putSlot s i x).dropRef w = putSlot (s.dropRef w) i x := by
  have window : ((putSlot s i x).withWindow w fun y => { y with refs := y.refs - 1 }).window w
      = (s.withWindow w fun y => { y with refs := y.refs - 1 }).window w := rfl
  unfold State.dropRef
  dsimp only
  rw [window]
  split
  · split
    · exact reportDeferred_putSlot (s := (s.withWindow w _).withWindow w _) ..
    · rfl
  · rfl

theorem dropRefs_putSlot (l : List WNum) : (putSlot s i x).dropRefs l = putSlot (s.dropRefs l) i x := by
  induction l generalizing s with
  | nil => rfl
  | cons w l ih => rw [State.dropRefs, State.dropRefs, dropRef_putSlot, ih]

theorem takeRefs_putSlot (l : List WNum) : (putSlot s i x).takeRefs l = putSlot (s.takeRefs l) i x := by
  rw [takeRefs_eq, takeRefs_eq]
  rfl

/-! ### The start of a member -/

section StartMember
variable {r : SubRecord} (member : x.member = some r) (live : x.live = true)
include member live

theorem startMember_passes {t : Translated} (check : s.startCheck x.partition r = .ok t) :
    (putSlot s i x).startMember i = (putSlot (s.takeRefs t.refs) i { x with ctx := some (memberCtx r t) },
      if t.op = .mark then [.endMember i] else [.startChunks i]) := by
  have check : (putSlot s i x).startCheck x.partition r = .ok t := check
  simp only [State.startMember, putSlot_slot, member, live, check, if_true, takeRefs_putSlot, putSlot_withSlot]

theorem startMember_fails {e : Failure} (check : s.startCheck x.partition r = .error e) :
    (putSlot s i x).startMember i = (putSlot s i x, [.fail i e.1 e.2]) := by
  have check : (putSlot s i x).startCheck x.partition r = .error e := check
  simp only [State.startMember, putSlot_slot, member, live, check, if_true]

end StartMember

/-! ### Failure -/

section Fail

/-- R91: the slot has no read request in the queue and waits for no data place. -/
def NoRequests (s : State) (i : SNum) : Prop :=
  (∀ q ∈ s.link.queue, ∀ k, q.requester ≠ .copyIn i k) ∧ i ∉ s.link.placeWaiters

theorem withdrawReads_none (none : ∀ q ∈ s.link.queue, ∀ k, q.requester ≠ .copyIn i k) : s.withdrawReads i = s := by
  have kept : s.link.queue.filter (fun q => !q.requester.ofSlot i) = s.link.queue := by
    refine List.filter_eq_self.mpr fun q hq => ?_
    have other := none q hq
    cases h : q.requester with
    | copyIn j k =>
      have : j ≠ i := fun same => other k (by rw [h, same])
      simp [Requester.ofSlot, this]
    | _ => rfl
  rw [State.withdrawReads, State.withLink, kept]

theorem leavePlaces_none (none : i ∉ s.link.placeWaiters) :
    s.withLink (fun l => { l with placeWaiters := l.placeWaiters.filter fun j => decide (j ≠ i) }) = s := by
  have kept : s.link.placeWaiters.filter (fun j => decide (j ≠ i)) = s.link.placeWaiters :=
    List.filter_eq_self.mpr fun j hj => decide_eq_true fun same => none (same ▸ hj)
  rw [State.withLink, kept]

/-- R91: a member all of whose chunks are HELD is cut: its contexts and their buffers are given back, and it ends. -/
theorem cutMember_held (none : NoRequests s i) (held : ∀ c ∈ x.chunks, c.phase = .held) :
    (putSlot s i x).cutMember i
      = (putSlot s i { x with chunks := [] }, x.chunks.flatMap (bufferRelease x.partition) ++ [.endMember i]) := by
  have uncut : x.chunks.map (fun c => c.cut ((putSlot s i x).unissued i c.chunk)) = x.chunks :=
    (List.map_congr_left fun c hc => by rw [ChunkCtx.cut, held c hc]; rfl).trans (List.map_id _)
  have freed (copyIn : Bool) : x.chunks.filter (fun c => c.freedByCut copyIn) = x.chunks :=
    List.filter_eq_self.mpr fun c hc => by simp [ChunkCtx.freedByCut, held c hc]
  have kept (copyIn : Bool) : x.chunks.filter (fun c => !c.freedByCut copyIn) = [] :=
    List.filter_eq_nil_iff.mpr fun c hc => by simp [ChunkCtx.freedByCut, held c hc]
  have withdrawn := withdrawReads_none (s := putSlot s i x) none.1
  have left := leavePlaces_none (s := putSlot s i x) none.2
  unfold State.cutMember
  dsimp only
  rw [putSlot_slot, uncut, freed, kept, withdrawn, left, putSlot_withSlot]
  rfl

theorem failMember_cuts (live : x.live = true) (a : Status) (d : Nat) : (putSlot s i x).failMember i a d
    = (putSlot s i { x with verdict := some { status := a, detail := d, failedMember := x.current } }).cutMember i := by
  simp only [State.failMember, putSlot_slot, live, if_true, putSlot_withSlot]

end Fail

/-! ### The end of a member -/

section EndMember

/-- The references that the member's end releases (R17). -/
def refsHeld (x : Slot) : List WNum := (x.ctx.map MemberCtx.refs).getD []

/-- R90, R99: what a member that has neither failed nor been aborted leaves in its slot. -/
def endedSlot (x : Slot) (c : MemberCtx) : Slot :=
  { x with ctx := none, digest := if x.op = some .digest then some (crcFinal c.crc) else x.digest }

theorem endMember_failed {v : Verdict} (failed : x.verdict = some v) :
    (putSlot s i x).endMember i = (putSlot (s.dropRefs (refsHeld x)) i { x with ctx := none }, [.post i v]) := by
  cases ctx : x.ctx with
  | none =>
    simp only [State.endMember, refsHeld, putSlot_slot, failed, ctx, dropRefs_putSlot, putSlot_withSlot]
    rfl
  | some c => simp only [State.endMember, refsHeld, putSlot_slot, failed, ctx, dropRefs_putSlot, putSlot_withSlot, Option.map_some,
      Option.getD_some]

variable {c : MemberCtx} (ctx : x.ctx = some c) (noVerdict : x.verdict = none) (noAbort : x.abort = none)
include ctx noVerdict noAbort

theorem endMember_answers (last : x.members.length ≤ x.current + 1) :
    (putSlot s i x).endMember i
      = (putSlot (s.dropRefs c.refs) i (endedSlot x c), [.post i { status := .ok, detail := 0, failedMember := 0 }]) := by
  unfold State.endMember endedSlot
  dsimp only
  rw [putSlot_slot, noVerdict, noAbort, ctx, if_neg (Nat.not_lt.mpr last)]
  dsimp only
  rw [dropRefs_putSlot, putSlot_withSlot]
  split <;> simp [noVerdict, noAbort]

theorem endMember_goesOn (more : x.current + 1 < x.members.length) :
    (putSlot s i x).endMember i
      = (putSlot (s.dropRefs c.refs) i { endedSlot x c with current := x.current + 1 }, [.startMember i]) := by
  unfold State.endMember endedSlot
  dsimp only
  rw [putSlot_slot, noVerdict, noAbort, ctx, if_pos more]
  dsimp only
  rw [dropRefs_putSlot, putSlot_withSlot]
  split <;> simp [noVerdict, noAbort]

end EndMember

/-! ### The end of a chunk -/

section EndChunk

/-- R88, R89: the slot with a chunk ended, and counted as done where it ran to its end. -/
def endedChunk (x : Slot) (k : Nat) (counted : Bool) : Slot := (if counted then x.countDone k else x).dropChunk k

theorem endChunk_quiet {k : Nat} {c : ChunkCtx} {counted : Bool} (found : x.chunk k = some c)
    (quiet : (endedChunk x k counted).startMeetsTurn = false) :
    (putSlot s i x).endChunk i k counted
      = (putSlot s i (endedChunk x k counted), bufferRelease x.partition c ++ [.afterEnd i, .turn i]) := by
  simp only [State.endChunk, putSlot_slot, found, putSlot_withSlot]
  exact if_neg (Bool.eq_false_iff.mp quiet)

/-- R89: where exactly the chunks below `k` count as done, chunk `k` makes the run one longer. -/
theorem chunkDone_inOrder {m : MemberCtx} {k : Nat} (done : m.doneChunks = k) (ahead : m.doneAhead = []) :
    m.chunkDone k = { m with doneChunks := k + 1, doneAhead := [] } := by
  simp [MemberCtx.chunkDone, done, ahead, growRun]

theorem runBytes_succ {len k : Nat} : runBytes len (k + 1) - runBytes len k = min 2048 (len - 2048 * k) := by
  simp only [runBytes, Config.chunkSize]
  omega

theorem countDone_inOrder {m : MemberCtx} {r : SubRecord} {k : Nat} (ctx : x.ctx = some m) (member : x.member = some r)
    (done : m.doneChunks = k) (ahead : m.doneAhead = []) :
    x.countDone k = { x with
      ctx := some { m with doneChunks := k + 1, doneAhead := [] }
      bytesDone := x.bytesDone + min 2048 (r.length.toNat - 2048 * k) } := by
  simp only [Slot.countDone, ctx, member, chunkDone_inOrder done ahead, done, runBytes_succ]

theorem afterEnd_ends {m : MemberCtx} (ctx : x.ctx = some m) (live : x.live = true) (none : x.chunks = []) (all : m.count ≤ m.next) :
    (putSlot s i x).afterEnd i = (putSlot s i x, [.endMember i]) := by
  have running : x.st ≠ .draining := by
    rintro st
    simp [Slot.live, st] at live
  simp [State.afterEnd, ctx, live, none, all, running]

theorem afterEnd_starts {m : MemberCtx} (ctx : x.ctx = some m) (live : x.live = true) (more : x.chunks ≠ [] ∨ m.next < m.count) :
    (putSlot s i x).afterEnd i = (putSlot s i x, [.startChunks i]) := by
  have running : x.st ≠ .draining := by
    rintro st
    simp [Slot.live, st] at live
  have goesOn : (x.chunks.isEmpty && decide (m.count ≤ m.next)) = false := by
    rcases more with some | more
    · simp [some]
    · simp [Nat.not_le.mpr more]
  simp [State.afterEnd, ctx, live, goesOn, running]

/-- R111: a buffer given back while nobody waits for one. -/
theorem release_free {b : BNum} {p : PNum} (nobody : s.pool.waiting = []) :
    s.doWork (.release b p) = (s.withBufferBack b p, []) := by
  have free := releaseBuffer_free s b p (arbiterPick_empty _ nobody)
  simp only [State.doWork, free]
  rfl

end EndChunk

/-! ### The turns of chunks -/

section Turn

theorem takeTurn_idle (none : ∀ c, x.inTurn = some c → c.phase ≠ .held) : (putSlot s i x).takeTurn i = (putSlot s i x, []) := by
  unfold State.takeTurn
  dsimp only
  rw [putSlot_slot]
  split
  next c _ _ _ inTurn => simp [none c inTurn]
  next => rfl

/-- With no context the slot has no turn to take. -/
theorem takeTurn_ended (ended : x.ctx = none) : (putSlot s i x).takeTurn i = (putSlot s i x, []) := by
  simp [State.takeTurn, ended]

variable {m : MemberCtx} {r : SubRecord} {c : ChunkCtx} {op : Op} (ctx : x.ctx = some m) (member : x.member = some r)
  (named : opOf r = some op) (inTurn : x.inTurn = some c) (live : x.live = true) (held : c.phase = .held)
include ctx member named inTurn live held

theorem takeTurn_writes (writes : op = .copyIn ∨ op = .move) : (putSlot s i x).takeTurn i = (putSlot s i x).writeChunk i m c := by
  rcases writes with rfl | rfl <;> simp [State.takeTurn, Slot.op, ctx, member, named, inTurn, live, held]

theorem takeTurn_digest (isDigest : op = .digest) : (putSlot s i x).takeTurn i = (putSlot s i x).enterCrc i m c := by
  subst isDigest
  simp [State.takeTurn, Slot.op, ctx, member, named, inTurn, live, held]

variable (copyOut : op = .copyOut) (absent : i ∉ s.link.placeWaiters)
include copyOut absent

theorem takeTurn_handsOver (place : s.link.placesUsed < 64) : (putSlot s i x).takeTurn i = (putSlot s i x).handOverChunk i r c := by
  subst copyOut
  have absent : (putSlot s i x).link.placeWaiters.contains i = false := by
    show s.link.placeWaiters.contains i = false
    simpa using absent
  have place : (putSlot s i x).link.placesUsed < Config.dataPlaces := place
  simp only [State.takeTurn, Slot.op, putSlot_slot, ctx, member, Option.bind_some, named, inTurn, live, held, absent, place]
  simp

theorem takeTurn_waitsForPlace (full : 64 ≤ s.link.placesUsed) :
    (putSlot s i x).takeTurn i = (putSlot (s.withLink fun l => { l with placeWaiters := l.placeWaiters ++ [i] }) i x, []) := by
  subst copyOut
  have absent : (putSlot s i x).link.placeWaiters.contains i = false := by
    show s.link.placeWaiters.contains i = false
    simpa using absent
  have full : ¬(putSlot s i x).link.placesUsed < Config.dataPlaces := Nat.not_lt.mpr full
  simp only [State.takeTurn, Slot.op, putSlot_slot, ctx, member, Option.bind_some, named, inTurn, live, held, absent, full]
  simp
  rfl

end Turn

section Write
variable {m : MemberCtx} {c : ChunkCtx} {b : BNum} {range : CardRange} (buffer : c.buffer = some b) (primary : m.primary = some range)
include buffer primary

theorem writeChunk_issues (clear : FenceClear s (range.base + 2048 * c.chunk) c.size) :
    (putSlot s i x).writeChunk i m c
      = (putSlot (s.withAccess i c.chunk (range.base + 2048 * c.chunk) c.size (some ((s.buffer b).data.take c.size))) i
          (x.changeChunk c.chunk fun c => { c with phase := .writing }), [.turn i]) := by
  have passes : (putSlot s i x).presentAccess i c.chunk (range.at c.chunk) c.size (some ((s.buffer b).data.take c.size))
      = .ok (putSlot (s.withAccess i c.chunk (range.base + 2048 * c.chunk) c.size (some ((s.buffer b).data.take c.size))) i x) :=
    presentAccess_issued (putSlot s i x) _ _ _ _ _ (fenceHit_of_clear clear)
  have same : (putSlot s i x).buffer b = s.buffer b := rfl
  simp only [State.writeChunk, buffer, primary, same, passes, putSlot_withSlot]

theorem writeChunk_fenced {f : FNum} (stops : FenceStops s (range.base + 2048 * c.chunk) c.size f) :
    (putSlot s i x).writeChunk i m c = (putSlot s i x, [.fail i .fenced f.val]) := by
  have refused : (putSlot s i x).presentAccess i c.chunk (range.at c.chunk) c.size (some ((s.buffer b).data.take c.size))
      = .error f := presentAccess_stopped (putSlot s i x) _ _ _ _ _ _ (fenceHit_of_stops stops)
  have same : (putSlot s i x).buffer b = s.buffer b := rfl
  simp only [State.writeChunk, buffer, primary, same, refused]

end Write

/-! ### The group's answer -/

section Answer
variable {v : Verdict}

/-- R97: the answer sets the fields of the slot that say where its posting stands. -/
theorem postGroup_overwrites (st : SlotState) (verdict : Option Verdict) :
    (putSlot s i { x with st, verdict }).postGroup i v = (putSlot s i x).postGroup i v := by
  simp only [State.postGroup, putSlot_slot, putSlot_withSlot]
  rfl

theorem postGroup_slot (notBroken : (s.part x.partition).faultCause ≠ some .cqIndex) :
    ((putSlot s i x).postGroup i v).slot i
      = { x with st := .posting, verdict := some v, errorDue := v.status.errorClass.isSome, posted := false } := by
  have writes : ((putSlot s i x).part x.partition).discards = false := decide_eq_false notBroken
  simp only [State.postGroup, putSlot_slot, putSlot_withSlot, writes]
  refine (congrArg (fun b => look b.2.2.2.2.2.2.1 i) (blocks_newRecord _ _ _)).trans ?_
  exact look_upd_same ..

/-- R97, R98: the group is answered, and its slot waits for the completion's issue. -/
theorem settles_post (notBroken : (s.part x.partition).faultCause ≠ some .cqIndex) :
    Settles 2 (putSlot s i x) [.post i v] ((putSlot s i x).postGroup i v) := by
  have waits : ((putSlot s i x).postGroup i v).tryRelease i = ((putSlot s i x).postGroup i v, []) := by
    simp [State.tryRelease, postGroup_slot notBroken]
  exact settles_cons (u := (putSlot s i x).postGroup i v) (more := [.release98 i]) rfl (settles_cons waits (settles_nil _))

theorem dropRef_parts (w : WNum) : (s.dropRef w).parts = s.parts := by
  have answered (u : State) (o : DeferOp) (n : Nat) (a : AdminStatus) : (u.reportDeferred o n a).parts = u.parts :=
    congrArg (fun b => b.2.2.2.2.1) (blocks_reportDeferred u o n a)
  unfold State.dropRef
  dsimp only
  split_ifs
  · exact answered ..
  · rfl
  · rfl

theorem dropRefs_part (l : List WNum) (p : PNum) : (s.dropRefs l).part p = s.part p := by
  induction l generalizing s with
  | nil => rfl
  | cons w l ih => rw [State.dropRefs, ih, State.part, dropRef_parts, State.part]

/-- R90, R97: a failed member's end answers its group. -/
theorem settles_endFailed (failed : x.verdict = some v) (notBroken : (s.part x.partition).faultCause ≠ some .cqIndex) :
    Settles 3 (putSlot s i x) [.endMember i] ((putSlot (s.dropRefs (refsHeld x)) i { x with ctx := none }).postGroup i v) :=
  settles_cons (endMember_failed failed) (settles_post (by rwa [dropRefs_part]))

end Answer

end Sys2Proof.Machine.Proofs
end

section
/-! Chains of inner events that several statements share, and the return of a record that answers its group at once (R60, R62, R65, R77,
R78, R90, R91, R97): O42. -/

namespace Sys2Proof.Machine.Proofs

open Laws

/-! ### What a member that passes its start has -/

section Passed
variable {s : State} {p : PNum} {r : SubRecord} {t : Translated} {op : Op}

theorem formatCheck_ok (h : formatCheck r = .ok op) : opOf r = some op ∧ lengthOk r op = true := by
  unfold formatCheck at h
  split at h
  · cases h
  next named =>
    split_ifs at h with flags reserved length
    obtain rfl := Except.ok.inj h
    exact ⟨named, by simpa using length⟩

theorem checkOperand_usable {len : Nat} {o : CardOperand} {w : WNum} {range : CardRange}
    (h : s.checkOperand p len o = .ok (w, range)) : (s.window w).st = .opened ∨ (s.window w).st = .locked := by
  unfold State.checkOperand at h
  split at h
  · cases h
  next v named =>
    dsimp only at h
    split_ifs at h with notUsable
    obtain ⟨rfl, -⟩ := Prod.mk.inj (Except.ok.inj h)
    simpa [or_iff_not_imp_left] using notUsable

/-- R78: the format checks have passed, and the references are to windows that are OPEN or LOCKED. -/
theorem startCheck_ok (h : s.startCheck p r = .ok t) :
    formatCheck r = .ok t.op ∧ ∀ w ∈ t.refs, (s.window w).st = .opened ∨ (s.window w).st = .locked := by
  unfold State.startCheck at h
  cases format : formatCheck r with
  | error e => simp only [format] at h; cases h
  | ok op =>
    simp only [format] at h
    cases primary : primaryOperand r op with
    | none =>
      simp only [primary] at h
      obtain rfl := Except.ok.inj h
      exact ⟨rfl, fun w hw => by cases hw⟩
    | some o =>
      simp only [primary] at h
      cases first : s.checkOperand p r.length.toNat o with
      | error e => simp only [first] at h; cases h
      | ok both =>
        obtain ⟨w, range⟩ := both
        simp only [first] at h
        have usable := checkOperand_usable first
        cases secondary : secondaryOperand r op with
        | none =>
          simp only [secondary] at h
          obtain rfl := Except.ok.inj h
          exact ⟨rfl, fun v hv => by rwa [List.mem_singleton.mp hv]⟩
        | some o2 =>
          simp only [secondary] at h
          cases second : s.checkOperand p r.length.toNat o2 with
          | error e => simp only [second] at h; cases h
          | ok both2 =>
            obtain ⟨w2, range2⟩ := both2
            simp only [second] at h
            split_ifs at h
            obtain rfl := Except.ok.inj h
            refine ⟨rfl, fun v hv => ?_⟩
            rcases List.mem_pair.mp hv with rfl | rfl
            · exact usable
            · exact checkOperand_usable second

theorem startCheck_named (h : s.startCheck p r = .ok t) : opOf r = some t.op := (formatCheck_ok (startCheck_ok h).1).1

/-- R70: a member with chunks has a byte at least. -/
theorem startCheck_length (h : s.startCheck p r = .ok t) (notMark : t.op ≠ .mark) : 1 ≤ r.length.toNat := by
  have fits := (formatCheck_ok (startCheck_ok h).1).2
  cases op : t.op <;> simp_all [lengthOk]

/-- R15, R17: references taken and released at once. -/
theorem dropRefs_takeRefs (l : List WNum) (kept : ∀ w ∈ l, (s.window w).st ≠ .retiring) : (s.takeRefs l).dropRefs l = s := by
  have stays : ∀ w ∈ l, ((s.takeRefs l).window w).st ≠ .retiring ∨ l.count w < ((s.takeRefs l).window w).refs := by
    intro w hw
    refine .inl ?_
    rw [takeRefs_eq, State.window, look_mapTab]
    exact kept w hw
  rw [dropRefs_kept _ _ stays, takeRefs_eq]
  refine congrArg (fun windows => { s with windows }) (table_ext _ _ fun w => ?_)
  rw [look_mapTab, look_mapTab]
  simp

end Passed

/-! ### The slot that acts, and the laws it leaves alone -/

section Answered
variable {s : State} {i : SNum} {x : Slot}

theorem intact_putSlot {d : Device} (h : Intact d s) (ok : x.parityOk = true) : Intact d (putSlot s i x) := by
  obtain ⟨device, slots, windows, parts⟩ := h
  refine ⟨device, fun j => ?_, windows, parts⟩
  by_cases same : j = i
  · rw [same, putSlot_slot]
    exact ok
  · rw [putSlot_slot_ne same]
    exact slots j

theorem sharedFree_of_purse {t : State} (h : purse t = purse s) : t.sharedFree = s.sharedFree := by
  obtain ⟨deficits, free⟩ := Prod.mk.inj h
  rw [State.sharedFree, State.sharedFree, deficits, free]

@[simp] theorem purse_putSlot : purse (putSlot s i x) = purse s := (rfl)

theorem withoutChunks_eq (chunks : x.chunks = []) (ctx : x.ctx = none) : { x with chunks := [], ctx := none } = x := by
  rw [← chunks, ← ctx]

/-- R63: a slot that has just been put in ASSEMBLING for a partition. -/
def emptySlot (p : PNum) (first : Nat) : Slot := { Slot.free with st := .assembling, partition := p, firstIndex := first }

end Answered

/-! ### Chains that start or end a member -/

section Chains
variable {s : State} {i : SNum} {x : Slot} {k : Nat} {t : State} {r : SubRecord} {c : MemberCtx} {op : Op}

/-- R77, R79: a member that passes its start goes on to its chunks. -/
theorem settles_start {u : Translated} (member : x.member = some r) (live : x.live = true)
    (check : s.startCheck x.partition r = .ok u) (notMark : u.op ≠ .mark)
    (rest : Settles k (putSlot (s.takeRefs u.refs) i { x with ctx := some (memberCtx r u) }) [.startChunks i] t) :
    Settles (k + 1) (putSlot s i x) [.startMember i] t := by
  have starts := startMember_passes (s := s) (i := i) member live check
  rw [if_neg notMark] at starts
  exact settles_cons starts rest

/-- R91, R97: a member whose chunks hold no buffer and no access fails, and its group is answered. -/
theorem settles_fail {a : Status} {d : Nat} (live : x.live = true) (noReads : NoRequests s i)
    (held : ∀ c ∈ x.chunks, c.phase = .held ∧ c.buffer = none) (notBroken : (s.part x.partition).faultCause ≠ some .cqIndex) :
    Settles 4 (putSlot s i x) [.fail i a d]
      ((putSlot (s.dropRefs (refsHeld x)) i { x with chunks := [], ctx := .none }).postGroup i
        { status := a, detail := d, failedMember := x.current }) := by
  have noBuffers : x.chunks.flatMap (bufferRelease x.partition) = [] :=
    List.flatMap_eq_nil_iff.mpr fun c hc => by rw [bufferRelease, (held c hc).2]
  have cut := (failMember_cuts (s := s) (i := i) live a d).trans
    (cutMember_held (x := { x with verdict := some { status := a, detail := d, failedMember := x.current } }) noReads
      fun c hc => (held c hc).1)
  have ends := settles_endFailed (s := s) (i := i)
    (x := { x with verdict := some { status := a, detail := d, failedMember := x.current }, chunks := [] }) rfl notBroken
  have answered := postGroup_overwrites (s := s.dropRefs (refsHeld x)) (i := i) (x := { x with chunks := [], ctx := .none })
    (v := { status := a, detail := d, failedMember := x.current }) x.st
    (some { status := a, detail := d, failedMember := x.current })
  rw [← answered]
  refine settles_cons cut ?_
  rw [show x.chunks.flatMap (bufferRelease ({ x with verdict := some { status := a, detail := d, failedMember := x.current } } : Slot).partition)
    = [] from noBuffers]
  exact ends

/-- R91, R103, R97: a member whose one chunk is HELD with a buffer fails, nobody waiting for a buffer, and its group is answered. -/
theorem settles_failBuffer {a : Status} {d : Nat} {chunk : ChunkCtx} {b : BNum} (live : x.live = true) (noReads : NoRequests s i)
    (chunks : x.chunks = [chunk]) (held : chunk.phase = .held) (buffer : chunk.buffer = some b) (nobody : s.pool.waiting = [])
    (notBroken : (s.part x.partition).faultCause ≠ some .cqIndex) :
    Settles 5 (putSlot s i x) [.fail i a d]
      ((putSlot ((s.withBufferBack b x.partition).dropRefs (refsHeld x)) i { x with chunks := [], ctx := .none }).postGroup i
        { status := a, detail := d, failedMember := x.current }) := by
  have cut := (failMember_cuts (s := s) (i := i) live a d).trans
    (cutMember_held (x := { x with verdict := some { status := a, detail := d, failedMember := x.current } }) noReads
      fun c hc => by rw [chunks, List.mem_singleton] at hc; rw [hc, held])
  have freed : x.chunks.flatMap (bufferRelease x.partition) = [.release b x.partition] := by
    simp [chunks, bufferRelease, buffer]
  have faultKept : ((s.withBufferBack b x.partition).part x.partition).faultCause ≠ some .cqIndex := by
    rw [State.withBufferBack, withPart_part_same]
    exact notBroken
  have ends := settles_endFailed (s := s.withBufferBack b x.partition) (i := i)
    (x := { x with verdict := some { status := a, detail := d, failedMember := x.current }, chunks := [] }) rfl faultKept
  have answered := postGroup_overwrites (s := (s.withBufferBack b x.partition).dropRefs (refsHeld x)) (i := i)
    (x := { x with chunks := [], ctx := .none })
    (v := { status := a, detail := d, failedMember := x.current }) x.st
    (some { status := a, detail := d, failedMember := x.current })
  rw [← answered]
  refine settles_cons cut ?_
  rw [show x.chunks.flatMap (bufferRelease ({ x with verdict := some { status := a, detail := d, failedMember := x.current } } : Slot).partition)
    = _ from freed]
  exact settles_cons (release_free (s := putSlot s i _) nobody) ends

/-- R90, R96, R97: the last member of a group ends, and the group is answered OK. -/
theorem settles_endLast (ctx : x.ctx = some c) (noVerdict : x.verdict = none) (noAbort : x.abort = none)
    (last : x.members.length ≤ x.current + 1) (notBroken : (s.part x.partition).faultCause ≠ some .cqIndex) :
    Settles 3 (putSlot s i x) [.endMember i] ((putSlot (s.dropRefs c.refs) i (endedSlot x c)).postGroup i
      { status := .ok, detail := 0, failedMember := 0 }) :=
  settles_cons (endMember_answers ctx noVerdict noAbort last) (settles_post (by rwa [dropRefs_part]))

theorem live_iff : x.live = true ↔ x.st = .running ∧ x.verdict = none ∧ x.abort = none := by
  simp [Slot.live, and_assoc]

/-- R77, R90, R97: a MARK that is the last of its group ends in the step of its start, and the group is answered OK. -/
theorem settles_mark (member : x.member = some r) (live : x.live = true)
    (check : s.startCheck x.partition r = .ok { op := .mark, primary := none, secondary := none, refs := [] })
    (noCtx : x.ctx = none) (last : x.members.length ≤ x.current + 1)
    (notBroken : (s.part x.partition).faultCause ≠ some .cqIndex) :
    Settles 4 (putSlot s i x) [.startMember i] ((putSlot s i x).postGroup i { status := .ok, detail := 0, failedMember := 0 }) := by
  obtain ⟨-, noVerdict, noAbort⟩ := live_iff.mp live
  let m : MemberCtx := memberCtx r { op := .mark, primary := none, secondary := none, refs := [] }
  have starts : (putSlot s i x).doWork (.startMember i) = (putSlot s i { x with ctx := some m }, [.endMember i]) :=
    startMember_passes member live check
  have ends := settles_endLast (s := s) (i := i) (x := { x with ctx := some m }) rfl noVerdict noAbort last notBroken
  have notDigest : ({ x with ctx := some m } : Slot).op ≠ some .digest := by
    have named : x.op = some .mark := by
      rw [Slot.op, member]
      exact startCheck_named check
    exact fun h => by cases named.symm.trans h
  have plain : endedSlot { x with ctx := some m } m = x := by rw [endedSlot, if_neg notDigest, ← noCtx]
  have chain := settles_cons starts ends
  rwa [plain] at chain

/-- R22, R91: a member without buffers whose first card access a fence stops fails in the step of its start. -/
theorem settles_firstFenced {u : Translated} {range : CardRange} {f : FNum} (member : x.member = some r) (live : x.live = true)
    (check : s.startCheck x.partition r = .ok u) (named : u.op = .fill ∨ u.op = .digest) (primary : u.primary = some range)
    (noCtx : x.ctx = none) (noChunks : x.chunks = []) (stops : FenceStops s range.base (chunkLen r.length.toNat 0) f)
    (noReads : NoRequests s i) (notBroken : (s.part x.partition).faultCause ≠ some .cqIndex) :
    Settles 6 (putSlot s i x) [.startMember i] ((putSlot s i x).postGroup i
      { status := .fenced, detail := f.val, failedMember := x.current }) := by
  have notMark : u.op ≠ .mark := by rcases named with h | h <;> rw [h] <;> decide
  have plain : u.op.needsBuffer = false := by rcases named with h | h <;> rw [h] <;> rfl
  have positive := startCheck_length check notMark
  let z : Slot := { x with ctx := some (memberCtx r u) }
  let t : Slot := withChunk z (memberCtx r u) r .held none 0
  have stopped : FenceStops (s.takeRefs u.refs) (range.base + 2048 * (memberCtx r u).next) (chunkLen r.length.toNat 0) f := by
    rw [takeRefs_eq]
    exact stops
  have may : z.mayStart (memberCtx r u) = true := by
    have count : 0 < chunkCount r.length.toNat := Nat.div_pos (by simp only [Config.chunkSize]; omega) (by decide)
    have few : z.chunks.length < Config.chunkContexts := by simp [z, noChunks, Config.chunkContexts]
    simp only [Slot.mayStart, Bool.and_eq_true, decide_eq_true_iff]
    exact ⟨⟨live, few⟩, count⟩
  obtain ⟨phase, write, access⟩ : ∃ phase write, firstAccess (memberCtx r u) r u.op = (some range, phase, write) := by
    rcases named with h | h <;> rw [h] <;> exact ⟨_, _, congrArg (·, _, _) primary⟩
  have fenced : (putSlot (s.takeRefs u.refs) i z).doWork (.startChunks i)
      = (putSlot (s.takeRefs u.refs) i t, [.fail i .fenced f.val]) :=
    (startChunks_unbuffered (x := z) (c := memberCtx r u) rfl member (startCheck_named check) may plain).trans (startChunk_fenced access stopped)
  have fails := settles_fail (s := s.takeRefs u.refs) (i := i) (x := t) (a := .fenced) (d := f.val) live
    (by rw [takeRefs_eq]; exact noReads) (by simp [t, withChunk, z, noChunks, newChunk]) (by rw [takeRefs_eq]; exact notBroken)
  have dropped : (s.takeRefs u.refs).dropRefs (refsHeld t) = s :=
    dropRefs_takeRefs u.refs fun v hv => by rcases (startCheck_ok check).2 v hv with h | h <;> rw [h] <;> decide
  have chain := settles_start (s := s) (i := i) member live check notMark (settles_cons fenced fails)
  rwa [dropped, show { t with chunks := [], ctx := none } = x from withoutChunks_eq noChunks noCtx] at chain

end Chains

/-! ### A host read that returns whole -/

section Return
variable {s : State} {n : TNum} {q : ReadRequest} {got : List (Option Byte)} {left limit : Nat} {data : List Byte} {i : SNum}

theorem onLink_busy (live : s.device.st ≠ .halted) (busy : s.tag n = .busy q got left limit) :
    s.onLink n = some (q, got, left, limit) := by
  simp [State.onLink, State.halted, live, busy]

/-- R178: the part that is all of a request's data hands them to the requester. -/
theorem exec_partWhole (live : s.device.st ≠ .halted) (busy : s.tag n = .busy q (List.replicate q.len none) left limit)
    (whole : data.length = q.len) :
    exec (.hostReadPartReturn n 0 data) s = .next ((s.withTag n fun _ => .free).deliver q data) := by
  refine congrArg Host.Outcome.next ?_
  rw [onLink_busy live busy]
  dsimp only
  rw [← whole, placeBytes_whole, allArrived_map, arrivedData_map]
  rfl

theorem atSlot_good {ps : List PNum} {act : State → Inner} (good : TablesGood s) :
    s.atSlot i ps act = (act s).1.finish s.sharedFree (act s).2 := by
  obtain ⟨slots, windows, parts⟩ := good
  rw [State.atSlot, parityError_allGood slots windows parts]

end Return

/-! ### A record that returns -/

section Record
variable {s : State} {i : SNum} {a : Assembling} {p : PNum} {r : SubRecord}

/-- R60: the slot with a record joined to its members. -/
def joinedSlot (x : Slot) (r : SubRecord) : Slot :=
  { x with members := x.members ++ [r], barrier := if x.members.isEmpty then r.barrierFlag else x.barrier
           notifyNow := x.notifyNow || r.notifyNowFlag }

/-- R60, R61: the ring head past a record read. -/
def headPast (s : State) (p : PNum) : State := s.withPart p fun y => { y with sqHead := (y.sqHead + 1) % y.sqSize }

theorem appendRecord_eq : s.appendRecord p i r = putSlot (headPast s p) i (joinedSlot (s.slot i) r) := (rfl)

theorem recordReturn_starts (last : r.cont = false) (free : (joinedSlot (s.slot i) r).barrier = false) :
    s.recordReturn p i a r
      = (putSlot ((headPast s p).withAssembling p none) i { joinedSlot (s.slot i) r with st := .running }, [.startMember i]) := by
  have clear : (((s.appendRecord p i r).withAssembling p none).slot i).barrier = false := by
    rw [appendRecord_eq]
    exact (congrArg Slot.barrier putSlot_slot).trans free
  simp only [State.recordReturn, last, State.enterWaitOrder, clear]
  rw [appendRecord_eq]
  exact congrArg (·, [Work.startMember i]) (putSlot_withSlot (s := (headPast s p).withAssembling p none) _)

theorem recordReturn_tooLong (more : r.cont = true) (full : a.membersRead = 15) :
    s.recordReturn p i a r
      = (putSlot ((headPast s p).withAssembling p none) i (joinedSlot (s.slot i) r), [.post i groupTooLong]) := by
  simp only [State.recordReturn, more, full]
  rfl

variable {n : TNum} {addr : HostAddr} {left limit : Nat} {data : List Byte}

/-- R178, R60: a record read that returns to its ASSEMBLING slot. -/
theorem exec_recordReturn (running : s.device.st = .running) (good : TablesGood s) (whole : data.length = 64)
    (busy : s.tag n = .busy { requester := .record i, addr, len := 64, place := 0 } (List.replicate 64 none) left limit)
    (assembles : (s.slot i).st = .assembling) (found : s.assembling (s.slot i).partition = some a) (slot : a.slot = i)
    (reads : a.readOutstanding = true) :
    exec (.hostReadPartReturn n 0 data) s = .next
      (((s.withTag n fun _ => .free).recordReturn (s.slot i).partition i a (SubRecord.decode data)).1.finish s.sharedFree
        ((s.withTag n fun _ => .free).recordReturn (s.slot i).partition i a (SubRecord.decode data)).2) := by
  have awaits : (s.withTag n fun _ => .free).awaitsRecord i = some ((s.slot i).partition, a) := by
    have found : (s.withTag n fun _ => .free).assembling (s.slot i).partition = some a := found
    simp [State.awaitsRecord, found, slot, reads, assembles]
  have good : TablesGood (s.withTag n fun _ => .free) := good
  rw [exec_partWhole (by simp [running]) busy whole, State.deliver]
  dsimp only
  rw [awaits]
  exact congrArg Host.Outcome.next (atSlot_good good)

end Record

/-! ### Groups answered in the step of their last record -/

/-- Settles O42: the record joins; the group of one member runs at once, and its answer ends the chain of inner events. -/
theorem markGroupAnswered : Obligations.MarkGroupAnswered := by
  intro s n data addr left limit i a r x p run running good whole decoded busy found slot reads noFault joined answered
  let w := (headPast (s.withTag n fun _ => .free) p).withAssembling p none
  let y : Slot := { joinedSlot x r with st := .running }
  have parity : x.parityOk = true := good.1 i
  have intactW : Intact s.device w :=
    (intact_withPart (s := s.withTag n fun _ => .free) p (fun y => { y with sqHead := (y.sqHead + 1) % y.sqSize }) fun _ => rfl).mpr
      ⟨rfl, good⟩
  have purseW : purse w = purse s := purse_withPart (s := s.withTag n fun _ => .free) p _ rfl
  have live : s.device.st ≠ .halted := by simp [running]
  have notStopping : s.device.st ≠ .stopping := by simp [running]
  have notBroken : (w.part p).faultCause ≠ some .cqIndex := by
    have entry : w.part p = { s.part p with sqHead := ((s.part p).sqHead + 1) % (s.part p).sqSize } := withPart_part_same ..
    simp [entry, noFault]
  have finishes {k : Nat} {z : Slot} {ws : List Work} {t : State} (ok : z.parityOk = true) (chain : Settles k (putSlot w i z) ws t)
      (small : k ≤ Config.innerBound) (share : purse t = purse s) : (putSlot w i z).finish s.sharedFree ws = t := by
    rw [finish_chain (intact_putSlot intactW ok) live chain small notStopping, reevaluate_same _ _ (sharedFree_of_purse share)]
  have inState (v : Verdict) : (joined.withSlot i fun x => { x with st := .running }).postGroup i v = (putSlot w i y).postGroup i v :=
    congrArg (State.postGroup · i v) (putSlot_withSlot (s := w) _)
  have assembled (assembles : x.st = .assembling) := exec_recordReturn running good whole busy assembles found slot reads
  rw [decoded] at assembled
  refine ⟨fun fresh last free => ?_, fun assembles more full => ?_⟩
  · have blank : x = emptySlot p x.firstIndex := fresh
    have noMembers : x.members = [] := congrArg Slot.members blank
    have noChunks : y.chunks = [] := congrArg Slot.chunks blank
    have noCtx : y.ctx = none := congrArg Slot.ctx blank
    have current : y.current = 0 := congrArg Slot.current blank
    have noVerdict : y.verdict = none := congrArg Slot.verdict blank
    have noAbort : y.abort = none := congrArg Slot.abort blank
    have members : y.members = [r] := by simp [y, joinedSlot, noMembers]
    have member : y.member = some r := by simp [Slot.member, members, current]
    have runs : y.live = true := by
      rw [Slot.live, noVerdict, noAbort]
      rfl
    have unbarred : (joinedSlot x r).barrier = false := by simp [joinedSlot, noMembers, free]
    have returned : run = .next ((putSlot w i y).finish s.sharedFree [.startMember i]) := by
      have starts := recordReturn_starts (s := s.withTag n fun _ => .free) (i := i) (a := a) (p := p) last unbarred
      rw [show run = _ from assembled (congrArg Slot.st blank), starts]
      rfl
    have answers {k : Nat} {v : Verdict} (chain : Settles k (putSlot w i y) [.startMember i] ((putSlot w i y).postGroup i v))
        (small : k ≤ Config.innerBound) : run = .next ((joined.withSlot i fun x => { x with st := .running }).postGroup i v) := by
      rw [returned, finishes (by exact parity) chain small ((purse_postGroup ..).trans purseW), inState]
    refine ⟨fun isMark flags length host primary secondary low primaryOffset secondaryOffset pattern high => ?_, fun reads absent => ⟨?_, ?_⟩⟩
    · have named : opOf r = some .mark := opOf_eq_some_iff.mpr (by rw [isMark]; rfl)
      have small : r.flags.toNat < 8 := by rcases flags with h | h <;> rw [h] <;> decide
      have zero : FieldsZero r := by
        simp [FieldsZero, isMark, low, high, host, primary, secondary, primaryOffset, secondaryOffset, pattern]
      have fits : LengthFits r := by simp [LengthFits, isMark, length]
      have check : w.startCheck p r = .ok { op := .mark, primary := none, secondary := none, refs := [] } := by
        simp only [State.startCheck, formatCheck_passes named small zero fits, primaryOperand]
      exact answers (settles_mark member runs check noCtx (by simp [members, current]) notBroken) (by decide)
    · intro status detail check
      have fails : (putSlot w i y).doWork (.startMember i) = (putSlot w i y, [.fail i status detail]) :=
        startMember_fails member runs (show w.startCheck p r = .error (status, detail) from check)
      have chain := settles_cons fails (settles_fail (a := status) (d := detail) runs ⟨reads, absent⟩ (by simp [noChunks]) notBroken)
      rw [withoutChunks_eq noChunks noCtx, show refsHeld y = [] by rw [refsHeld, noCtx]; rfl, current] at chain
      exact answers chain (by decide)
    · intro t range f check op primary stops meets least
      have chain := settles_firstFenced (s := w) (i := i) (range := range) (f := f) member runs check op primary noCtx noChunks
        ⟨meets, least⟩ ⟨reads, absent⟩ notBroken
      rw [current] at chain
      exact answers chain (by decide)
  · have joins := recordReturn_tooLong (s := s.withTag n fun _ => .free) (i := i) (a := a) (p := p) more full
    have chain := settles_post (s := w) (i := i) (x := joinedSlot x r) (v := groupTooLong) notBroken
    rw [show run = _ from assembled assembles, joins]
    exact congrArg Host.Outcome.next (finishes (by exact parity) chain (by decide) ((purse_postGroup ..).trans purseW))

end Sys2Proof.Machine.Proofs
end

section
/-! The return of a record that joins a group, waits, or starts its member's one chunk (R60, R61, R65, R77, R79, R81, R83 to R87, R93):
O41. -/

namespace Sys2Proof.Machine.Proofs

open Laws

/-! ### Chains that start one chunk -/

section OneChunk
variable {s : State} {i : SNum} {x : Slot} {c : MemberCtx} {r : SubRecord} {op : Op} {range : CardRange} {phase : Phase}
  {write : Option (List Byte)} {b : BNum} (ctx : x.ctx = some c) (member : x.member = some r) (named : opOf r = some op)
  (may : x.mayStart c = true)
include ctx member named may

/-- R86, R87: a chunk without a buffer issues its access, and no other chunk starts after it. -/
theorem settles_chunk (plain : op.needsBuffer = false) (access : firstAccess c r op = (some range, phase, write))
    (clear : FenceClear s (range.base + 2048 * c.next) (chunkLen r.length.toNat c.next))
    (stop : ∀ u, (putSlot u i (withChunk x c r phase none 0)).startChunks i = (putSlot u i (withChunk x c r phase none 0), [])) :
    Settles 2 (putSlot s i x) [.startChunks i]
      (putSlot (s.withAccess i c.next (range.base + 2048 * c.next) (chunkLen r.length.toNat c.next) write) i
        (withChunk x c r phase none 0)) :=
  settles_cons (w := .startChunks i) ((startChunks_unbuffered ctx member named may plain).trans (startChunk_issues access clear))
    (settles_cons (w := .startChunks i) (stop _) (settles_nil _))

variable (needs : op.needsBuffer = true) (eligible : MayTake s x.partition) (free : LowestFree s b)
include needs eligible free

/-- R84, R85: a chunk takes a buffer and issues its card read, and no other chunk starts after it. -/
theorem settles_chunkBuffered (access : firstAccess c r op = (some range, phase, write))
    (clear : FenceClear s (range.base + 2048 * c.next) (chunkLen r.length.toNat c.next))
    (stop : ∀ u, u = (s.withBufferGranted b i x.partition).withAccess i c.next (range.base + 2048 * c.next)
        (chunkLen r.length.toNat c.next) write →
      (putSlot u i (withChunk x c r phase (some b) 0)).startChunks i = (putSlot u i (withChunk x c r phase (some b) 0), [])) :
    Settles 2 (putSlot s i x) [.startChunks i]
      (putSlot ((s.withBufferGranted b i x.partition).withAccess i c.next (range.base + 2048 * c.next)
        (chunkLen r.length.toNat c.next) write) i (withChunk x c r phase (some b) 0)) :=
  settles_cons (w := .startChunks i)
    ((startChunks_buffered ctx member named may needs eligible free).trans (startChunk_issues access clear))
    (settles_cons (w := .startChunks i) (stop _ rfl) (settles_nil _))

/-- R83: a COPY_IN chunk takes a buffer and asks for its host bytes, and no other chunk starts after it. -/
theorem settles_chunkCopyIn (copyIn : op = .copyIn)
    (stop : ∀ u n, (putSlot u i (withChunk x c r .reading (some b) n)).startChunks i
      = (putSlot u i (withChunk x c r .reading (some b) n), [])) :
    let asked := readRequests (.copyIn i c.next) (r.hostAddr + BitVec.ofNat 64 (2048 * c.next)) (chunkLen r.length.toNat c.next)
    Settles 2 (putSlot s i x) [.startChunks i]
      (putSlot ((s.withBufferGranted b i x.partition).withLink fun l => { l with queue := l.queue ++ asked }) i
        (withChunk x c r .reading (some b) asked.length)) := by
  subst copyIn
  exact settles_cons (w := .startChunks i)
    ((startChunks_buffered ctx member named may needs eligible free).trans startChunk_copyIn)
    (settles_cons (w := .startChunks i) (stop _ _) (settles_nil _))

end OneChunk

/-! ### The ways of a record that returns -/

section Returns
variable {s : State} {i : SNum} {a : Assembling} {p : PNum} {r : SubRecord}

theorem headPast_part : (headPast s p).part p = { s.part p with sqHead := ((s.part p).sqHead + 1) % (s.part p).sqSize } :=
  withPart_part_same ..

section More
variable (more : r.cont = true) (room : a.membersRead + 1 < 16)
include more room

theorem recordReturn_more : s.recordReturn p i a r
    = if ((s.appendRecord p i r).part p).sqHead ≠ ((s.appendRecord p i r).part p).sqTail then
        ((s.appendRecord p i r).readRecord p i (a.membersRead + 1), [])
      else ((s.appendRecord p i r).withAssembling p
        (some { slot := i, membersRead := a.membersRead + 1, readOutstanding := false }), []) := by
  have few : ¬Config.groupLimit ≤ a.membersRead + 1 := Nat.not_le.mpr room
  simp [State.recordReturn, more, few]

theorem recordReturn_waits (none : (s.part p).sqTail = ((s.part p).sqHead + 1) % (s.part p).sqSize) :
    s.recordReturn p i a r = ((putSlot (headPast s p) i (joinedSlot (s.slot i) r)).withAssembling p
      (some { slot := i, membersRead := a.membersRead + 1, readOutstanding := false }), []) := by
  have entry : (s.appendRecord p i r).part p = _ := headPast_part
  rw [recordReturn_more more room, entry]
  exact if_neg (not_not.mpr none.symm)

theorem recordReturn_reads (available : (s.part p).sqTail ≠ ((s.part p).sqHead + 1) % (s.part p).sqSize) :
    s.recordReturn p i a r = ((putSlot (headPast s p) i (joinedSlot (s.slot i) r)).readRecord p i (a.membersRead + 1), []) := by
  have entry : (s.appendRecord p i r).part p = _ := headPast_part
  rw [recordReturn_more more room, entry]
  exact if_pos available.symm

end More

theorem recordReturn_waitsOrder (last : r.cont = false) (barrier : (joinedSlot (s.slot i) r).barrier = true) {j : SNum} (other : j ≠ i)
    (occupied : (s.slot j).st ≠ .free) (mine : (s.slot j).partition = p) :
    s.recordReturn p i a r
      = (putSlot ((headPast s p).withAssembling p none) i { joinedSlot (s.slot i) r with st := .waitOrder }, []) := by
  let u := (s.appendRecord p i r).withAssembling p none
  have held : (u.slot i).barrier = true := by
    have slot : u.slot i = joinedSlot (s.slot i) r := putSlot_slot
    rw [slot, barrier]
  have notAlone : u.slotsOf p ≠ [i] := by
    intro alone
    have slot : u.slot j = s.slot j := putSlot_slot_ne other
    have member : j ∈ u.slotsOf p := mem_which.mpr (by simp [slot, Slot.occupied, occupied, mine])
    rw [alone, List.mem_singleton] at member
    exact other member
  have waits : ¬((u.slot i).barrier = false ∨ u.slotsOf p = [i]) := by
    rintro (h | h)
    · rw [held] at h
      cases h
    · exact notAlone h
  have unfolded : s.recordReturn p i a r = (s.appendRecord p i r).enterWaitOrder p i := by simp [State.recordReturn, last]
  rw [unfolded, State.enterWaitOrder]
  dsimp only
  refine (if_neg waits).trans ?_
  exact congrArg (·, ([] : List Work)) (putSlot_withSlot (s := (headPast s p).withAssembling p none) _)

end Returns

/-- Settles O41: what the record makes of its group decides which chain of inner events follows. -/
theorem recordReturned : Obligations.RecordReturned := by
  intro s n data addr left limit i a x p y r head run running good whole busy assembles found slot reads joined
  let v := s.withTag n fun _ => .free
  have parity : x.parityOk = true := good.1 i
  have intactH : Intact s.device (headPast v p) :=
    (intact_withPart (s := v) p (fun y => { y with sqHead := (y.sqHead + 1) % y.sqSize }) fun _ => rfl).mpr ⟨rfl, good⟩
  have purseH : purse (headPast v p) = purse s := purse_withPart (s := v) p _ rfl
  have live : s.device.st ≠ .halted := by simp [running]
  have notStopping : s.device.st ≠ .stopping := by simp [running]
  have assembled := exec_recordReturn running good whole busy assembles found slot reads
  have ends {k : Nat} {u t : State} {ws : List Work} (acts : v.recordReturn p i a r = (u, ws)) (ok : Intact s.device u)
      (chain : Settles k u ws t) (small : k ≤ Config.innerBound) : run = .next (t.reevaluate s.sharedFree) := by
    rw [show run = _ from assembled, show (s.withTag n fun _ => .free).recordReturn (s.slot i).partition i a (SubRecord.decode data)
      = (u, ws) from acts]
    exact congrArg Host.Outcome.next (finish_chain ok live chain small notStopping)
  have still {u : State} (acts : v.recordReturn p i a r = (u, [])) (ok : Intact s.device u) (share : purse u = purse s) :
      run = .next u := by
    rw [ends acts ok (settles_nil u) (by decide), reevaluate_same _ _ (sharedFree_of_purse share)]
  refine ⟨fun more room => ⟨fun none => ?_, fun available aligned => ?_⟩, fun last barrier other => ?_, fun t last free fresh check low high => ?_⟩
  · exact still (recordReturn_waits (s := v) more room none) (intact_putSlot intactH parity) purseH
  · have acts := recordReturn_reads (s := v) (i := i) more room available
    have request := readRecord_eq (s := putSlot (headPast v p) i (joinedSlot (v.slot i) r)) (p := p) (i := i) (n := a.membersRead + 1)
      (by rw [show (putSlot (headPast v p) i (joinedSlot (v.slot i) r)).part p = _ from headPast_part]; exact aligned)
    rw [show (putSlot (headPast v p) i (joinedSlot (v.slot i) r)).part p = _ from headPast_part] at request
    rw [request] at acts
    exact still acts (intact_putSlot intactH parity) purseH
  · obtain ⟨j, other, occupied, mine⟩ := other
    have held : (joinedSlot (v.slot i) r).barrier = true := by
      show (joinedSlot x r).barrier = true
      by_cases none : x.members = []
      · simpa [joinedSlot, none] using barrier
      · rw [if_neg none] at barrier
        simp [joinedSlot, none, barrier]
    have acts := recordReturn_waitsOrder (s := v) (a := a) last held other occupied mine
    rw [still acts (intact_putSlot (s := (headPast v p).withAssembling p none) intactH parity) purseH]
    exact congrArg Host.Outcome.next (putSlot_withSlot (s := (headPast v p).withAssembling p none) (i := i) (x := joinedSlot x r)
      fun x => { x with st := .waitOrder }).symm
  · intro ctx taken started issued granted clear may
    have blank : x = emptySlot p x.firstIndex := fresh
    have noMembers : x.members = [] := congrArg Slot.members blank
    have current : x.current = 0 := congrArg Slot.current blank
    let w := (headPast v p).withAssembling p none
    let y : Slot := { joinedSlot x r with st := .running }
    have noChunks : y.chunks = [] := congrArg Slot.chunks blank
    have noVerdict : y.verdict = none := congrArg Slot.verdict blank
    have noAbort : y.abort = none := congrArg Slot.abort blank
    have member : y.member = some r := by simp [y, Slot.member, joinedSlot, noMembers, current]
    have runs : y.live = true := live_iff.mpr ⟨rfl, noVerdict, noAbort⟩
    have unbarred : (joinedSlot (v.slot i) r).barrier = false := by
      show (joinedSlot x r).barrier = false
      simp [joinedSlot, noMembers, free]
    have named := startCheck_named check
    have size : chunkLen r.length.toNat 0 = r.length.toNat := by simp only [chunkLen, Config.chunkSize]; omega
    have count : chunkCount r.length.toNat = 1 := by simp only [chunkCount, Config.chunkSize]; omega
    have context : memberCtx r t = ctx 0 := by
      rw [memberCtx, count]
      rfl
    let z : Slot := { y with ctx := some (ctx 0) }
    let T := { w with windows := mapTab (fun w (y : Window) => { y with refs := y.refs + t.refs.count w }) w.windows }
    have takenRefs : w.takeRefs t.refs = T := takeRefs_eq ..
    have purseT : purse T = purse s := purseH
    have intactW : Intact s.device (putSlot w i y) := intact_putSlot (s := w) intactH parity
    have mayStart : z.mayStart (ctx 0) = true := by
      have few : z.chunks.length < Config.chunkContexts := by rw [show z.chunks = [] from noChunks]; decide
      simp only [Slot.mayStart, Bool.and_eq_true, decide_eq_true_iff]
      exact ⟨⟨runs, few⟩, Nat.one_pos⟩
    have stop (u : State) (phase : Phase) (b : Option BNum) (requests : Nat) :
        (putSlot u i (withChunk z (ctx 0) r phase b requests)).startChunks i
          = (putSlot u i (withChunk z (ctx 0) r phase b requests), []) :=
      startChunks_ends (c := ctx 1) rfl member named (by simp [Slot.mayStart, ctx])
    have starts (u : State) (phase : Phase) (b : Option BNum) (requests : Nat) :
        putSlot u i (withChunk z (ctx 0) r phase b requests) = started (putSlot u i (joinedSlot x r)) phase b requests := by
      refine Eq.trans ?_ (putSlot_withSlot (s := u) (i := i) (x := joinedSlot x r) _).symm
      rw [withChunk, newChunk, show z.chunks = [] from noChunks, show (ctx 0).next = 0 from rfl, size]
      rfl
    have runsTo {k : Nat} {u : State} (notMark : t.op ≠ .mark) (chain : Settles k (putSlot T i z) [.startChunks i] u)
        (small : k + 1 ≤ Config.innerBound) : run = .next (u.reevaluate s.sharedFree) := by
      refine ends (recordReturn_starts (s := v) last unbarred) intactW (settles_start member runs check notMark ?_) small
      rw [takenRefs, context]
      exact chain
    have fences (base : Nat) (h : clear base) : FenceClear T (base + 2048 * (ctx 0).next) (chunkLen r.length.toNat (ctx 0).next) := by
      rw [show chunkLen r.length.toNat (ctx 0).next = r.length.toNat from size]
      exact h
    have mayTake : MayTake T p ↔ may := by
      have entry : T.part p = { s.part p with sqHead := ((s.part p).sqHead + 1) % (s.part p).sqSize } := headPast_part
      rw [MayTake, entry, sharedFree_of_purse purseT]
    have unchanged {u : State} (share : purse u = purse s) : u.reevaluate s.sharedFree = u :=
      reevaluate_same _ _ (sharedFree_of_purse share)
    refine ⟨fun range fill primary apart => ?_, fun range digest primary apart => ?_, fun b may' free lower => ⟨fun copyIn => ?_,
      fun range reads apart => ?_⟩, fun refused needs => ?_⟩
    · have access : firstAccess (ctx 0) r t.op = (some range, .writing, some (fillData r (chunkLen r.length.toNat 0))) := by
        rw [fill]
        exact congrArg (·, _, _) primary
      have chain := settles_chunk (s := T) (i := i) (x := z) rfl member named mayStart (by rw [fill]; rfl) access (fences _ apart)
        fun u => stop u _ none 0
      rw [runsTo (by rw [fill]; decide) chain (by decide), unchanged (by exact purseT), starts,
        show chunkLen r.length.toNat (ctx 0).next = r.length.toNat from size]
      rfl
    · have access : firstAccess (ctx 0) r t.op = (some range, .reading, none) := by
        rw [digest]
        exact congrArg (·, _, _) primary
      have chain := settles_chunk (s := T) (i := i) (x := z) rfl member named mayStart (by rw [digest]; rfl) access (fences _ apart)
        fun u => stop u _ none 0
      rw [runsTo (by rw [digest]; decide) chain (by decide), unchanged (by exact purseT), starts,
        show chunkLen r.length.toNat (ctx 0).next = r.length.toNat from size]
      rfl
    · intro asked
      have chain := settles_chunkCopyIn (s := T) (i := i) (x := z) (b := b) rfl member named mayStart (by rw [copyIn]; rfl) (mayTake.mpr may')
        ⟨free, lower⟩ copyIn fun u n => stop u _ (some b) n
      have address : r.hostAddr + BitVec.ofNat 64 (2048 * (ctx 0).next) = r.hostAddr := BitVec.add_zero _
      rw [address, show chunkLen r.length.toNat (ctx 0).next = r.length.toNat from size] at chain
      rw [runsTo (by rw [copyIn]; decide) chain (by decide), starts]
      rfl
    · have access : firstAccess (ctx 0) r t.op = (some range, .reading, none) := by
        rcases reads with ⟨op, place⟩ | ⟨op, place⟩ <;> rw [op] <;> exact congrArg (·, _, _) place
      have needs : t.op.needsBuffer = true := by rcases reads with ⟨op, -⟩ | ⟨op, -⟩ <;> rw [op] <;> rfl
      have notMark : t.op ≠ .mark := by rcases reads with ⟨op, -⟩ | ⟨op, -⟩ <;> rw [op] <;> decide
      have chain := settles_chunkBuffered (s := T) (i := i) (x := z) (b := b) rfl member named mayStart needs (mayTake.mpr may') ⟨free, lower⟩
        access (fences _ apart) fun u _ => stop u _ (some b) 0
      rw [runsTo notMark chain (by decide), starts, show chunkLen r.length.toNat (ctx 0).next = r.length.toNat from size]
      rfl
    · have needsBuffer : t.op.needsBuffer = true := by rcases needs with op | op | op <;> rw [op] <;> rfl
      have notMark : t.op ≠ .mark := by rcases needs with op | op | op <;> rw [op] <;> decide
      have waits := startChunks_waits (s := T) (i := i) (x := z) rfl member named mayStart needsBuffer (mt mayTake.mp refused) noChunks
      have chain := settles_cons (w := .startChunks i) waits (settles_nil _)
      have waiting : (putSlot T i z).withSlot i (fun x => { x with st := .waitBuffer })
          = taken.withSlot i fun x => { x with st := .waitBuffer, ctx := some (ctx 0) } :=
        (putSlot_withSlot _).trans (putSlot_withSlot (s := T) (i := i) (x := joinedSlot x r) fun x =>
          { x with st := .waitBuffer, ctx := some (ctx 0) }).symm
      have share : purse ((putSlot T i z).waitForBuffer i p) = purse s := (purse_waitForBuffer ..).trans purseT
      rw [runsTo notMark chain (by decide), show z.partition = p from rfl, unchanged share, State.waitForBuffer, waiting]
      rfl

end Sys2Proof.Machine.Proofs
end

section
/-! The ends of host reads with data: parts, COPY_IN requests and the command read (R82, R83, R91, R164, R178): O40. -/

namespace Sys2Proof.Machine.Proofs

open Laws

/-! ### Steps that end outside RUNNING -/

section Open
variable {d : Device} {k before : Nat} {s u t : State} {ws : List Work}

/-- What a change of one entry keeps of every entry. -/
theorem part_withPart_kept {α : Type} (g : Partition → α) {p : PNum} {f : Partition → Partition} (kept : ∀ y, g (f y) = g y) (q : PNum) :
    g ((s.withPart p f).part q) = g (s.part q) := by
  by_cases same : q = p
  · rw [same, withPart_part_same, kept]
  · rw [withPart_part_ne _ _ _ _ same]

theorem count_st (y : Partition) (a : Status) (n : Nat) : (y.count a n).unreserve.st = y.st := by
  unfold Partition.unreserve Partition.count
  dsimp only
  split <;> rfl

/-- R97: a group's answer leaves its partition in the state it is in. -/
theorem postGroup_part_st {i : SNum} {v : Verdict} {q : PNum} : ((s.postGroup i v).part q).st = (s.part q).st := by
  have answered (u : State) : ((u.withPart (s.slot i).partition fun y =>
      (y.count v.status (s.slot i).bytesDone).unreserve).part q).st = (u.part q).st :=
    part_withPart_kept Partition.st (fun y => count_st y v.status (s.slot i).bytesDone) q
  unfold State.postGroup
  dsimp only
  split
  · exact answered _
  · have written (u : State) (w : PostedWrite) : (u.postWrite w).part q = u.part q := rfl
    rw [part_of_blocks (blocks_newRecord ..), part_withPart_kept (f := Partition.advanceCq) Partition.st (fun _ => rfl) q, written]
    exact answered _

theorem parts_handOver {e : Event} : (s.handOver e).parts = s.parts := parts_of_blocks (blocks_handOver s e)

theorem parts_reevaluate : (s.reevaluate before).parts = s.parts := by
  unfold State.reevaluate State.evalWatermark
  dsimp only
  split
  · rfl
  · split
    · exact parts_handOver
    · rfl

/-- R191: a stop does not end while a partition is not CLOSED. -/
theorem endStop_of_open {p : PNum} (opened : (s.part p).st ≠ .closed) : s.endStop = s := by
  refine if_neg fun done => opened ?_
  simp only [Bool.and_eq_true, State.stopDone, List.all_eq_true, List.mem_finRange, decide_eq_true_eq, forall_const] at done
  exact done.2.1.1.1.1.1.1 p

/-- A step that leaves a partition that is not CLOSED ends where its inner events end, the watermark re-evaluated. -/
theorem finish_chain_open (intact : Intact d u) (outsideHalted : d.st ≠ .halted) (chain : Settles k u ws t)
    (small : k ≤ Config.innerBound) {p : PNum} (opened : (t.part p).st ≠ .closed) : u.finish before ws = t.reevaluate before := by
  rw [State.finish, settle_chain intact outsideHalted chain small]
  refine endStop_of_open (p := p) ?_
  rwa [State.part, parts_reevaluate]

end Open

/-! ### A chunk of a slot's list -/

section ChunkList
variable {l : List ChunkCtx} {k : Nat} {c d : ChunkCtx} {f : ChunkCtx → ChunkCtx}

/-- R82: a change of chunk `k`, which has not written, leaves the turn of another chunk where it is. -/
theorem inTurn_changed_other (turn : l.find? (fun c => decide (c.phase ≠ .writing)) = some d) (other : d.chunk ≠ k)
    (found : l.find? (fun c => decide (c.chunk = k)) = some c) (notWriting : c.phase ≠ .writing) :
    (l.map fun c => if c.chunk = k then f c else c).find? (fun c => decide (c.phase ≠ .writing)) = some d := by
  induction l with
  | nil => cases turn
  | cons e l ih =>
    by_cases writing : e.phase = .writing
    · have notMine : e.chunk ≠ k := by
        intro mine
        rw [List.find?_cons_of_pos (by simp [mine])] at found
        exact notWriting (Option.some.inj found ▸ writing)
      rw [List.find?_cons_of_neg (by simp [writing])] at turn
      rw [List.find?_cons_of_neg (by simp [notMine])] at found
      rw [List.map_cons, if_neg notMine, List.find?_cons_of_neg (by simp [writing])]
      exact ih turn found
    · rw [List.find?_cons_of_pos (by simp [writing])] at turn
      obtain rfl := Option.some.inj turn
      rw [List.map_cons, if_neg other, List.find?_cons_of_pos (by simp [writing])]

/-- R82: a change of the chunk in turn that does not let it write leaves it in turn. -/
theorem inTurn_changed_self (turn : l.find? (fun c => decide (c.phase ≠ .writing)) = some c) (mine : c.chunk = k)
    (found : l.find? (fun c => decide (c.chunk = k)) = some c) (stays : (f c).phase ≠ .writing) :
    (l.map fun c => if c.chunk = k then f c else c).find? (fun c => decide (c.phase ≠ .writing)) = some (f c) := by
  induction l with
  | nil => cases turn
  | cons e l ih =>
    by_cases writing : e.phase = .writing
    · have notMine : e.chunk ≠ k := by
        intro mine
        rw [List.find?_cons_of_pos (by simp [mine])] at found
        obtain rfl := Option.some.inj found
        exact absurd writing (by simpa using List.find?_some turn)
      rw [List.find?_cons_of_neg (by simp [writing])] at turn
      rw [List.find?_cons_of_neg (by simp [notMine])] at found
      rw [List.map_cons, if_neg notMine, List.find?_cons_of_neg (by simp [writing])]
      exact ih turn found
    · rw [List.find?_cons_of_pos (by simp [writing])] at turn
      obtain rfl := Option.some.inj turn
      rw [List.map_cons, if_pos mine, List.find?_cons_of_pos (by simp [stays])]

end ChunkList

section ChunkSlot
variable {s : State} {i : SNum} {x : Slot} {k : Nat} {c : ChunkCtx}

theorem chunk_number (found : x.chunk k = some c) : c.chunk = k := by simpa using List.find?_some found

/-- Two changes of one chunk, the first of which keeps its number. -/
theorem changeChunk_changeChunk (f g : ChunkCtx → ChunkCtx) (kept : ∀ c, (f c).chunk = c.chunk) :
    (x.changeChunk k f).changeChunk k g = x.changeChunk k fun c => g (f c) := by
  refine congrArg (fun chunks => { x with chunks }) ?_
  simp only [Slot.changeChunk, List.map_map]
  refine List.map_congr_left fun c _ => ?_
  by_cases mine : c.chunk = k <;> simp [mine, kept]

/-- R82: where no other chunk is HELD and chunk `k` writes, nobody's turn has come. -/
theorem takeTurn_written {f : ChunkCtx → ChunkCtx} (others : ∀ d ∈ x.chunks, d.chunk ≠ k → d.phase ≠ .held)
    (writes : ∀ c, (f c).phase = .writing) :
    (putSlot s i (x.changeChunk k f)).takeTurn i = (putSlot s i (x.changeChunk k f), []) := by
  refine takeTurn_idle fun e inTurn => ?_
  obtain ⟨d, member, rfl⟩ := List.mem_map.mp (List.mem_of_find?_eq_some inTurn)
  by_cases mine : d.chunk = k
  · simp [mine, writes]
  · simpa [mine] using others d member mine

end ChunkSlot

/-! ### The answer of a group whose member's references are released -/

/-- R17, R90, R97: a member's end in the words of the statements, where no window of its references retires. -/
theorem withGroupAnswered_eq {s : State} {i : SNum} {x : Slot} {refs : List WNum} {f : Slot → Slot} {v : Verdict}
    (kept : ∀ w ∈ refs, (s.window w).st ≠ .retiring ∨ refs.count w < (s.window w).refs) :
    (putSlot (s.dropRefs refs) i { f x with chunks := [], ctx := none }).postGroup i v = (putSlot s i x).withGroupAnswered i refs f v := by
  rw [dropRefs_kept _ _ kept]
  refine congrArg (State.postGroup · i v) ?_
  exact (putSlot_withSlot (s := { s with windows := mapTab (fun w (y : Window) => { y with refs := y.refs - refs.count w }) s.windows })
    (i := i) (x := x) fun x => { f x with ctx := none, chunks := [] }).symm

/-! ### COPY_IN requests -/

section CopyIn
variable {s : State} {i : SNum} {k place : Nat} {bytes : List Byte} {c : ChunkCtx} {b : BNum} {m : Nat}

/-- R83: the bytes of a request at their place in the buffer. -/
def filledBuffer (s : State) (b : BNum) (place : Nat) (bytes : List Byte) : State :=
  s.withBuffer b fun x => { x with data := splice x.data place bytes }

variable (found : (s.slot i).chunk k = some c) (takes : c.discard = false) (buffer : c.buffer = some b) (requests : c.requests = m + 1)
include found takes buffer requests

theorem copyInReturn_more (more : 0 < m) : s.copyInReturn i k place bytes
    = (putSlot (filledBuffer s b place bytes) i ((s.slot i).changeChunk k fun c => { c with requests := m }), []) := by
  have left : c.requests - 1 = m := by omega
  simp only [State.copyInReturn, found, takes, buffer, left, Nat.ne_of_gt more]
  rfl

theorem copyInReturn_last (last : m = 0) : s.copyInReturn i k place bytes
    = (putSlot (filledBuffer s b place bytes) i ((s.slot i).changeChunk k fun c => { c with requests := 0, phase := .held }), [.turn i]) := by
  subst last
  have left : c.requests - 1 = 0 := by omega
  simp only [State.copyInReturn, found, takes, buffer, left]
  rfl

end CopyIn

/-- R178: a COPY_IN request that returns whole, in a state with good tables. -/
theorem exec_copyInReturn {s : State} {n : TNum} {addr : HostAddr} {len place left limit : Nat} {i : SNum} {k : Nat} {data : List Byte}
    (live : s.device.st ≠ .halted) (good : TablesGood s) (whole : data.length = len)
    (busy : s.tag n = .busy { requester := .copyIn i k, addr, len, place } (List.replicate len none) left limit) :
    exec (.hostReadPartReturn n 0 data) s = .next (((s.withTag n fun _ => .free).copyInReturn i k place data).1.finish s.sharedFree
      ((s.withTag n fun _ => .free).copyInReturn i k place data).2) := by
  have good : TablesGood (s.withTag n fun _ => .free) := good
  rw [exec_partWhole live busy whole, State.deliver]
  dsimp only
  exact congrArg Host.Outcome.next (atSlot_good good)

/-- Settles O40: a part is placed; the last byte hands the request to its requester, a COPY_IN chunk or the administrative channel. -/
theorem partReturned : Obligations.PartReturned := by
  intro s n offset data
  refine ⟨fun q got left limit live busy missing => ?_, fun idle => ?_, ?_, fun addr left limit live tag busy whole => ?_⟩
  · obtain ⟨j, missing⟩ := missing
    have notAll : allArrived (placeBytes got offset data) = false := by
      refine Bool.eq_false_iff.mpr fun all => ?_
      have := List.all_eq_true.mp all none (List.mem_of_getElem? missing)
      cases this
    refine congrArg Host.Outcome.next ?_
    rw [onLink_busy live busy]
    dsimp only
    rw [notAll]
    rfl
  · have nothing : s.onLink n = none := by
      unfold State.onLink
      split
      · rfl
      · cases tag : s.tag n with
        | busy => rw [tag] at idle; cases idle
        | _ => rfl
    refine congrArg Host.Outcome.next ?_
    rw [nothing]
  · intro addr len place left limit i k c b m running good opened busy whole found takes buffer requests filled
    let v := s.withTag n fun _ => .free
    let p := (s.slot i).partition
    have live : s.device.st ≠ .halted := by rcases running with h | h <;> rw [h] <;> decide
    have number : c.chunk = k := chunk_number found
    have parity (f : ChunkCtx → ChunkCtx) : ((s.slot i).changeChunk k f).parityOk = true := good.1 i
    have fill : filledBuffer v b place data = filled := by
      show v.withBuffer b _ = v.withBuffer b _
      simp only [splice, whole]
    have intactF : Intact s.device (filledBuffer v b place data) := ⟨rfl, good⟩
    have run := exec_copyInReturn live good whole busy
    have ends {j : Nat} {x : Slot} {ws : List Work} {t : State} (acts : v.copyInReturn i k place data = (putSlot (filledBuffer v b place data) i x, ws))
        (ok : x.parityOk = true) (chain : Settles j (putSlot (filledBuffer v b place data) i x) ws t) (small : j ≤ Config.innerBound)
        (kept : (t.part p).st = (s.part p).st) : exec (.hostReadPartReturn n 0 data) s = .next (t.reevaluate s.sharedFree) := by
      rw [run, show (s.withTag n fun _ => .free).copyInReturn i k place data = _ from acts]
      exact congrArg Host.Outcome.next
        (finish_chain_open (intact_putSlot intactF ok) live chain small (p := p) (kept ▸ opened))
    have last (none : m = 0) : v.copyInReturn i k place data = (putSlot (filledBuffer v b place data) i
        ((s.slot i).changeChunk k fun c => { c with requests := 0, phase := .held }), [.turn i]) :=
      copyInReturn_last (s := v) found takes buffer requests none
    let heldChunk : ChunkCtx := { c with requests := 0, phase := .held }
    let heldSlot : Slot := (s.slot i).changeChunk k fun c => { c with requests := 0, phase := .held }
    have named {r : SubRecord} (isCopyIn : r.op = 1) : opOf r = some .copyIn := opOf_eq_some_iff.mpr (by rw [isCopyIn]; rfl)
    have same {t : State} (share : purse t = purse s) : t.reevaluate s.sharedFree = t := reevaluate_same _ _ (sharedFree_of_purse share)
    refine ⟨fun more => ?_, fun d none reads turn lower below => ?_, fun r ctx range none isCopyIn primary => ⟨fun runs turn clear => ?_,
      fun f final reads nobody noReads noPlace stops => ?_⟩⟩
    · rw [ends (copyInReturn_more (s := v) found takes buffer requests more) (parity _) (settles_nil _) (by decide) rfl, fill]
      exact congrArg Host.Outcome.next (same rfl)
    · have idle : ∀ e, ((s.slot i).changeChunk k fun c => { c with requests := 0, phase := .held }).inTurn = some e → e.phase ≠ .held := by
        intro e inTurn
        have stays := inTurn_changed_other (f := fun c => { c with requests := 0, phase := .held }) turn (Nat.ne_of_lt below) found
          (by rw [reads]; decide)
        obtain rfl : d = e := Option.some.inj (stays.symm.trans inTurn)
        rw [lower]
        decide
      have chain := settles_cons (w := .turn i) (takeTurn_idle (s := filledBuffer v b place data) (i := i) idle) (settles_nil _)
      rw [ends (last none) (parity _) chain (by decide) rfl, fill]
      exact congrArg Host.Outcome.next (same rfl)
    · obtain ⟨st, noVerdict, noAbort, context, member⟩ := runs
      obtain ⟨inTurn, others⟩ := turn
      rw [number] at others
      have here : heldSlot.inTurn = some heldChunk := inTurn_changed_self inTurn number found (fun h => by cases h)
      have writes := (takeTurn_writes (s := filledBuffer v b place data) (i := i) (x := heldSlot) context member (named isCopyIn) here
        (live_iff.mpr ⟨st, noVerdict, noAbort⟩) rfl (.inl rfl)).trans (writeChunk_issues (c := heldChunk) buffer primary (number ▸ clear))
      rw [show heldChunk.chunk = k from number, show heldSlot = (s.slot i).changeChunk k _ from rfl,
        changeChunk_changeChunk (fun c => { c with requests := 0, phase := .held }) _ fun _ => rfl] at writes
      have chain := settles_cons (w := .turn i) writes (settles_cons (w := .turn i) (takeTurn_written others fun _ => rfl) (settles_nil _))
      rw [ends (last none) (parity _) chain (by decide) rfl, fill]
      exact congrArg Host.Outcome.next (same rfl)
    · obtain ⟨⟨st, noVerdict, noAbort, context, member⟩, -, chunks, -, -, -, -, -, -, kept, notBroken⟩ := final
      have here : heldSlot.inTurn = some heldChunk :=
        inTurn_changed_self (by simp [chunks, reads]) number found (fun h => by cases h)
      have alone : heldSlot.chunks = [heldChunk] := by simp [heldSlot, Slot.changeChunk, chunks, number, heldChunk]
      have runs : heldSlot.live = true := live_iff.mpr ⟨st, noVerdict, noAbort⟩
      have stopped := (takeTurn_writes (s := filledBuffer v b place data) (i := i) (x := heldSlot) context member (named isCopyIn) here runs rfl
        (.inl rfl)).trans (writeChunk_fenced (c := heldChunk) buffer primary (number ▸ stops))
      have chain := settles_cons (w := .turn i) stopped
        (settles_failBuffer (a := .fenced) (d := f.val) runs ⟨noReads, noPlace⟩ alone rfl buffer nobody notBroken)
      have refs : refsHeld heldSlot = ctx.refs := by rw [refsHeld, show heldSlot.ctx = _ from context]; rfl
      rw [refs] at chain
      have back : (((filledBuffer v b place data).withBufferBack b p).part p).st = (s.part p).st := by
        rw [State.withBufferBack, withPart_part_same]
        rfl
      have opens (t : State) (x : Slot) : (((putSlot (t.dropRefs ctx.refs) i x).postGroup i
          { status := .fenced, detail := f.val, failedMember := heldSlot.current }).part p).st = (t.part p).st :=
        postGroup_part_st.trans (congrArg Partition.st (dropRefs_part (s := t) ctx.refs p))
      rw [ends (last none) (parity _) chain (by decide) ((opens ..).trans back), fill]
      have answered := withGroupAnswered_eq (s := filled.withBufferBack b p) (i := i) (x := s.slot i) (refs := ctx.refs) (f := id)
        (v := { status := .fenced, detail := f.val, failedMember := (s.slot i).current }) kept
      rw [show putSlot (filled.withBufferBack b p) i (s.slot i) = _ from putSlot_self] at answered
      exact congrArg (fun t => Host.Outcome.next (State.reevaluate s.sharedFree t)) answered
  · rw [exec_partWhole live busy whole, exec_ringCommand (ringCommand_decodeCommand data)]
    have returned : (s.returnCommand fun s => s.runCommand (decodeCommand data))
        = .next ((s.withTag n fun _ => .free).takeCommand fun s => s.runCommand (decodeCommand data)) := by
      simp only [State.returnCommand, tag]
    rw [returned]
    rfl

end Sys2Proof.Machine.Proofs
end

section
/-! HALTED (R192, R101, R119, R139, R140, R157, R158): the blocks stand still until a reset: O60. -/

namespace Sys2Proof.Machine.Proofs

open Laws

/-- What stands still in HALTED. -/
def frozen (s : State) :=
  (s.device.st, s.device.haltCause, s.windows, s.parts, s.sched, s.slots, s.pool, s.poster, s.vectors, s.events, s.link.queue,
    s.link.store)

section Halted
variable {s : State} (halted : s.halted = true)
include halted

/-- R192: the report of deferred work stays in its entry. -/
theorem frozen_reportDeferred (o : DeferOp) (n : Nat) (a : AdminStatus) :
    frozen (s.reportDeferred o n a) = frozen s ∧ (s.reportDeferred o n a).halted = true := by
  unfold State.reportDeferred
  split
  · exact ⟨rfl, halted⟩
  · split
    · exact ⟨rfl, halted⟩
    · rw [if_pos halted]
      exact ⟨rfl, halted⟩

/-- R27, R31: the Fence Unit goes on counting the ends of accesses. -/
theorem frozen_countDownFence (f : FNum) : frozen (s.countDownFence f) = frozen s ∧ (s.countDownFence f).halted = true := by
  unfold State.countDownFence
  dsimp only
  split
  · split
    · split_ifs
      · exact frozen_reportDeferred (s := s.withFence f _) halted ..
      all_goals exact ⟨rfl, halted⟩
    · exact ⟨rfl, halted⟩
  · exact ⟨rfl, halted⟩

theorem frozen_endAccess (id : Nat) : frozen (s.endAccess id) = frozen s ∧ (s.endAccess id).halted = true := by
  have counted (l : List FNum) (u : State) (live : u.halted = true) :
      frozen (u.countDownFences l) = frozen u ∧ (u.countDownFences l).halted = true := by
    induction l generalizing u with
    | nil => exact ⟨rfl, live⟩
    | cons f l ih =>
      obtain ⟨same, stays⟩ := frozen_countDownFence live f
      obtain ⟨rest, ends⟩ := ih _ stays
      exact ⟨rest.trans same, ends⟩
  unfold State.endAccess State.endRecord
  split
  · exact ⟨rfl, halted⟩
  · exact counted _ _ halted

/-- R101: in HALTED the end of a card access is taken by the Fence Unit alone. -/
theorem frozen_cardEnd (n id : Nat) (o : CardOp) (act : State → SNum → Nat → Inner) :
    frozen (((s.endAccess id).endAtSlot n o act).endStop) = frozen s := by
  obtain ⟨same, stays⟩ := frozen_endAccess halted id
  have alone : (s.endAccess id).endAtSlot n o act = s.endAccess id := by
    unfold State.endAtSlot
    split
    · rfl
    · exact if_pos stays
  have notStopping : (s.endAccess id).stopping = false := by
    rw [State.stopping, (halted_iff _).mp stays]
    rfl
  rw [alone, endStop_of_not_stopping _ notStopping, same]

theorem onLink_halted (t : TNum) : s.onLink t = none := if_pos halted

theorem notRunning_halted : s.running = false := by
  rw [State.running, (halted_iff s).mp halted]
  rfl

theorem notActive_halted : s.active = false := by
  rw [State.active, notRunning_halted halted, State.stopping, (halted_iff s).mp halted]
  rfl

/-- R178, R182: no command read is on the link, and no administrative row returns one. -/
theorem exec_ringCommand_halted {c : Instr} (ring : ringCommand c = true) : exec c s = .next s := by
  have nothing : s.adminTag = none := lowest_none.mpr fun t => by rw [onLink_halted halted]
  rw [exec_ringCommand ring, State.returnCommand, nothing]

theorem frozen_elapse (n : Nat) : frozen (s.elapse n) = frozen s := by
  rw [elapse_halted halted]
  rfl

end Halted

theorem frozen_scrubOn (s : State) : frozen s.scrubOn = frozen s := by
  unfold State.scrubOn
  split <;> rfl

theorem halted_of_frozen {s t : State} (same : frozen t = frozen s) (halted : s.halted = true) : t.halted = true := by
  rw [halted_iff] at halted ⊢
  exact (congrArg Prod.fst same).trans halted

/-- R192: no command but a reset changes a block that stands still. -/
theorem exec_frozen {c : Instr} {s t : State} (noReset : powerOnOrBus c = false) (noFunctionReset : ∀ b, c ≠ .functionReset b)
    (noLevelReset : c ≠ .pcieFunctionLevelReset) (halted : s.halted = true) (h : exec c s = .next t) : frozen t = frozen s := by
  have st : s.device.st = .halted := (halted_iff s).mp halted
  have next {u : State} (kept : frozen u = frozen s) (h : (.next u : Host.Outcome State Fault Refusal) = .next t) :
      frozen t = frozen s := Host.Outcome.next.inj h ▸ kept
  have notIdle : s.running = false := notRunning_halted halted
  cases c with
  | powerOnReset | busReset => cases noReset
  | functionReset b => exact absurd rfl (noFunctionReset b)
  | pcieFunctionLevelReset => exact absurd rfl noLevelReset
  | scrubComplete | enableAttempt | adminSqBaseWrite | adminCqBaseWrite | adminSizesWrite =>
    exact next (congrArg frozen (if_neg (by simp [st]))) h
  | stop => exact next (congrArg frozen (if_neg (by simp [notIdle]))) h
  | registerWriteIgnored => exact next rfl h
  | statusRead => exact next (u := s.withDevice _) rfl h
  | notifySqTail p n | notifyCqHead p n =>
    refine next (u := s.notifyPart p _) ?_ h
    rw [State.notifyPart, notIdle]
    rfl
  | notifyAdminSqTail | notifyAdminCqHead | notifyEventRingHead =>
    refine next ?_ h
    rw [notIdle]
    rfl
  | notifyBadSelector => exact next (u := s.rejectNotify) rfl h
  | adminCommandReadIssue => exact next (congrArg frozen (if_neg (by simp [State.mayReadCommand, notIdle]))) h
  | servePartition =>
    refine next ?_ h
    rw [notIdle]
  | hostReadRequestIssue =>
    refine next ?_ h
    rw [notActive_halted halted]
  | hostReadPartReturn t => exact next (by rw [onLink_halted halted t]) h
  | hostReadErrorResponse t => exact next (by rw [onLink_halted halted t]) h
  | hostReadTimeout t => exact next (by rw [onLink_halted halted t]) h
  | tagQuarantineExpiry n =>
    refine next ?_ h
    split
    · exact frozen_elapse halted _
    all_goals rfl
  | cardReadDataReturn n =>
    change (match s.cardRead n with | none => _ | some o => _) = _ at h
    split at h
    · exact next rfl h
    next o _ =>
      split at h
      · cases h
      · have taken : frozen (s.readTaken o) = frozen s := frozen_scrubOn s
        exact next ((frozen_cardEnd (halted_of_frozen taken halted) ..).trans taken) h
  | cardReadEccError n =>
    change (match s.cardRead n with | none => _ | some o => _) = _ at h
    split at h
    · exact next rfl h
    · exact next (frozen_cardEnd halted ..) h
  | cardWriteAcknowledge n a b =>
    change (match s.cardWrite n with | none => _ | some o => _) = _ at h
    split at h
    · exact next rfl h
    next o _ =>
      split at h
      · cases h
      · have reached : frozen (s.writeReached o a b) = frozen s := frozen_scrubOn s
        exact next ((frozen_cardEnd (halted_of_frozen reached halted) ..).trans reached) h
  | postedWriteIssue =>
    refine next ?_ h
    have silent : s.issues = false := by rw [State.issues, halted, Bool.not_true, Bool.and_false]
    rw [silent]
  | errorPathStep =>
    refine next ?_ h
    rw [notActive_halted halted]
  | holdoffExpiry =>
    refine next ?_ h
    rw [halted]
  | _ => exact next rfl ((exec_ringCommand_halted halted rfl).symm.trans h)

/-- Settles O60: in HALTED no inner event is taken and no request ends. -/
theorem haltedFreezes : Obligations.HaltedFreezes := by
  intro c s t noReset noFunctionReset noLevelReset st h
  have same := exec_frozen noReset noFunctionReset noLevelReset ((halted_iff s).mpr st) h
  simp only [frozen, Prod.mk.injEq] at same
  rwa [st] at same

end Sys2Proof.Machine.Proofs
end

section
/-! What the inner events of a step do to what stands: no window becomes OPEN, a partition that is CLOSED, CLOSING or FAULTED stays so until
its closing ends, its rings stay where they are, deferred entries are only freed, and tags that are not BUSY keep still (R12, R40, R46,
R52, R168). -/

namespace Sys2Proof.Machine.Proofs

open Laws

/-! ### The relation -/

/-- The fields of a partition entry that say in which state it is and where its rings stand. -/
def standing (y : Partition) : PartState × Option FaultCause × Nat × Nat × Nat × Nat × Bool :=
  (y.st, y.faultCause, y.sqHead, y.sqTail, y.cqHead, y.cqTail, y.cqPass)

/-- The states of the windows, the standings of the partitions, the deferred entries and the read tags. -/
def berth (s : State) : (WNum → WindowState) × (PNum → PartState × Option FaultCause × Nat × Nat × Nat × Nat × Bool)
    × Vector (Option Deferred) 8 × Vector TagState 64 :=
  (fun w => (s.window w).st, fun p => standing (s.part p), s.admin.deferred, s.link.tags)

/-- R46, R40: where a partition may come in the inner events of a step; `ends`: its closing may end in them. -/
def Moves (ends : Prop) (a b : PartState) : Prop :=
  b = a ∨ ((a ≠ .closed ∧ a ≠ .closing ∧ a ≠ .faulted) ∧ b ≠ .closed ∧ b ≠ .closing) ∨ (ends ∧ b = .closed)

theorem Moves.trans {ends : Prop} {a b c : PartState} (h : Moves ends a b) (k : Moves ends b c) : Moves ends a c := by
  rcases k with rfl | ⟨⟨notClosed, notClosing, notFaulted⟩, keeps⟩ | ended
  · exact h
  · rcases h with rfl | ⟨taking, -⟩ | ⟨-, closed⟩
    · exact .inr (.inl ⟨⟨notClosed, notClosing, notFaulted⟩, keeps⟩)
    · exact .inr (.inl ⟨taking, keeps⟩)
    · exact absurd closed notClosed
  · exact .inr (.inr ended)

/-- R46, R47: the partition takes no more records; its fault cause stays. -/
def Spent (a : PartState) : Prop := a = .faulted ∨ a = .closing ∨ a = .closed

theorem Moves.spent {ends : Prop} {a b : PartState} (h : Moves ends a b) (spent : Spent a) : Spent b := by
  rcases h with rfl | ⟨⟨notClosed, notClosing, notFaulted⟩, -⟩ | ⟨-, closed⟩
  · exact spent
  · rcases spent with e | e | e
    · exact absurd e notFaulted
    · exact absurd e notClosing
    · exact absurd e notClosed
  · exact .inr (.inr closed)

/-- What the inner events leave of a partition entry. -/
structure PartOnward (ends : Prop) (y z : Partition) : Prop where
  st : Moves ends y.st z.st
  sqHead : z.sqHead = y.sqHead
  sqTail : z.sqTail = y.sqTail
  cqHead : z.cqHead = y.cqHead
  cause : Spent y.st → z.faultCause = y.faultCause
  ring : Spent y.st → y.faultCause = some .cqIndex → z.cqTail = y.cqTail ∧ z.cqPass = y.cqPass

theorem PartOnward.of_standing {ends : Prop} {y z : Partition} (h : standing z = standing y) : PartOnward ends y z := by
  simp only [standing, Prod.mk.injEq] at h
  obtain ⟨st, cause, sqHead, sqTail, cqHead, cqTail, cqPass⟩ := h
  exact ⟨.inl st, sqHead, sqTail, cqHead, fun _ => cause, fun _ _ => ⟨cqTail, cqPass⟩⟩

/-- A partition that is OPEN, QUIESCING or QUIESCED. -/
theorem PartOnward.of_taking {ends : Prop} {y z : Partition} (taking : y.st = .opened ∨ y.st = .quiescing ∨ y.st = .quiesced)
    (st : z.st ≠ .closed ∧ z.st ≠ .closing) (rings : z.sqHead = y.sqHead ∧ z.sqTail = y.sqTail ∧ z.cqHead = y.cqHead) :
    PartOnward ends y z := by
  have notSpent : ¬Spent y.st := by
    rintro (e | e | e)
    all_goals simp [e] at taking
  refine ⟨.inr (.inl ⟨⟨fun e => ?_, fun e => ?_, fun e => ?_⟩, st⟩), rings.1, rings.2.1, rings.2.2, fun spent => absurd spent notSpent,
    fun spent => absurd spent notSpent⟩
  · exact notSpent (.inr (.inr e))
  · exact notSpent (.inr (.inl e))
  · exact notSpent (.inl e)

theorem PartOnward.trans {ends : Prop} {x y z : Partition} (h : PartOnward ends x y) (k : PartOnward ends y z) : PartOnward ends x z where
  st := h.st.trans k.st
  sqHead := k.sqHead.trans h.sqHead
  sqTail := k.sqTail.trans h.sqTail
  cqHead := k.cqHead.trans h.cqHead
  cause spent := (k.cause (h.st.spent spent)).trans (h.cause spent)
  ring spent broken := by
    obtain ⟨tail, pass⟩ := h.ring spent broken
    obtain ⟨tail', pass'⟩ := k.ring (h.st.spent spent) ((h.cause spent).trans broken)
    exact ⟨tail'.trans tail, pass'.trans pass⟩

/-- What the inner events of a step do to what stands; `ends` says of which partitions the closing may end in them. -/
structure Onward (ends : PNum → Prop) (s t : State) : Prop where
  windows : ∀ w, (t.window w).st = .opened → (s.window w).st = .opened
  parts : ∀ p, PartOnward (ends p) (s.part p) (t.part p)
  deferred : ∀ j d, look t.admin.deferred j = some d → ∃ e, look s.admin.deferred j = some e ∧ e.post = d.post
  tags : ∀ n, (s.tag n).isBusy = false → t.tag n = s.tag n

section Relation
variable {ends : PNum → Prop} {s t u : State}

theorem Onward.of_berth (h : berth t = berth s) : Onward ends s t := by
  simp only [berth, Prod.mk.injEq] at h
  obtain ⟨windows, parts, deferred, tags⟩ := h
  exact ⟨fun w e => (congrFun windows w).symm.trans e, fun p => .of_standing (congrFun parts p), fun j d e => ⟨d, deferred ▸ e, rfl⟩,
    fun n _ => congrArg (look · n) tags⟩

theorem Onward.refl (s : State) : Onward ends s s := .of_berth rfl

theorem Onward.trans (h : Onward ends s t) (k : Onward ends t u) : Onward ends s u where
  windows w e := h.windows w (k.windows w e)
  parts p := (h.parts p).trans (k.parts p)
  deferred j d e := by
    obtain ⟨d', e', post'⟩ := k.deferred j d e
    obtain ⟨d'', e'', post''⟩ := h.deferred j d' e'
    exact ⟨d'', e'', post''.trans post'⟩
  tags n idle := by
    have first := h.tags n idle
    exact (k.tags n (first ▸ idle)).trans first

/-- An operation that leaves what stands, after others. -/
theorem Onward.before (h : Onward ends s t) (kept : berth u = berth t) : Onward ends s u := h.trans (.of_berth kept)

/-- An operation that leaves what stands, before others. -/
theorem Onward.after (kept : berth t = berth s) (h : Onward ends t u) : Onward ends s u := (Onward.of_berth kept).trans h

/-- A change of one partition entry. -/
theorem onward_withPart {p : PNum} {f : Partition → Partition} (moves : PartOnward (ends p) (s.part p) (f (s.part p))) :
    Onward ends s (s.withPart p f) where
  windows _ e := e
  parts q := by
    by_cases same : q = p
    · rw [same, withPart_part_same]
      exact moves
    · rw [withPart_part_ne _ _ _ _ same]
      exact .of_standing rfl
  deferred j d e := ⟨d, e, rfl⟩
  tags _ _ := rfl

end Relation

/-! ### Operations that leave what stands -/

section Berth
variable (s : State)

@[simp] theorem berth_withSlot (i : SNum) (f : Slot → Slot) : berth (s.withSlot i f) = berth s := (rfl)
@[simp] theorem berth_withPool (f : Pool → Pool) : berth (s.withPool f) = berth s := (rfl)
@[simp] theorem berth_withSched (f : Scheduler → Scheduler) : berth (s.withSched f) = berth s := (rfl)
@[simp] theorem berth_withPoster (f : Poster → Poster) : berth (s.withPoster f) = berth s := (rfl)
@[simp] theorem berth_withEvents (f : EventRing → EventRing) : berth (s.withEvents f) = berth s := (rfl)
@[simp] theorem berth_withVector (v : VNum) (f : MsgVector → MsgVector) : berth (s.withVector v f) = berth s := (rfl)
@[simp] theorem berth_withBuffer (b : BNum) (f : Buffer → Buffer) : berth (s.withBuffer b f) = berth s := (rfl)
@[simp] theorem berth_withAssembling (p : PNum) (a : Option Assembling) : berth (s.withAssembling p a) = berth s := (rfl)
@[simp] theorem berth_drawn : berth s.drawn = berth s := (rfl)
@[simp] theorem berth_postWrite (w : PostedWrite) : berth (s.postWrite w) = berth s := (rfl)
@[simp] theorem berth_askRead (r : Requester) (a : HostAddr) (n : Nat) : berth (s.askRead r a n) = berth s := (rfl)
@[simp] theorem berth_leaveWaiting (i : SNum) : berth (s.leaveWaiting i) = berth s := (rfl)

/-- A change of one partition entry that leaves its standing. -/
theorem berth_withPart (p : PNum) (f : Partition → Partition) (kept : ∀ y, standing (f y) = standing y) :
    berth (s.withPart p f) = berth s := by
  have same : (fun q => standing ((s.withPart p f).part q)) = fun q => standing (s.part q) :=
    funext fun q => part_withPart_kept standing kept q
  simp only [berth, withPart_window, withPart_admin, withPart_link, same]

@[simp] theorem berth_react (v : VNum) (r : Reaction) : berth (s.react v r) = berth s := by
  unfold State.react
  dsimp only
  split <;> simp

@[simp] theorem berth_newRecord (v : VNum) (u : Bool) : berth (s.newRecord v u) = berth s := berth_react ..

@[simp] theorem berth_handOver (e : Event) : berth (s.handOver e) = berth s := by
  unfold State.handOver
  split <;> simp [State.writeEvent]

@[simp] theorem berth_evalWatermark : berth s.evalWatermark = berth s := by
  unfold State.evalWatermark
  dsimp only
  split <;> simp

@[simp] theorem berth_reevaluate (n : Nat) : berth (s.reevaluate n) = berth s := by
  unfold State.reevaluate
  split <;> simp

@[simp] theorem berth_adminComplete (o : Nat) (t : Tag) (a : AdminStatus) (d : Nat) : berth (s.adminComplete o t a d) = berth s := by
  unfold State.adminComplete
  dsimp only
  rw [berth_newRecord]
  rfl

@[simp] theorem berth_grantBuffer (b : BNum) (i : SNum) (p : PNum) : berth (s.grantBuffer b i p) = berth s :=
  berth_withPart _ p _ fun _ => rfl

@[simp] theorem berth_freeUp (b : BNum) (p : PNum) : berth (s.freeUp b p) = berth s := berth_withPart _ p _ fun _ => rfl

@[simp] theorem berth_arbiterGrant (b : BNum) (p : PNum) (i : SNum) : berth (s.arbiterGrant b p i) = berth s :=
  berth_grantBuffer ..

@[simp] theorem berth_releaseBuffer (b : BNum) (p : PNum) : berth (s.releaseBuffer b p).1 = berth s := by
  unfold State.releaseBuffer
  dsimp only
  split <;> simp

@[simp] theorem berth_arbiterPass (n : Nat) : berth (State.arbiterPass n s).1 = berth s := by
  induction n generalizing s with
  | zero => rfl
  | succ n ih =>
    unfold State.arbiterPass
    split
    · exact (ih _).trans (berth_arbiterGrant ..)
    · rfl

@[simp] theorem berth_takeRefs (l : List WNum) : berth (s.takeRefs l) = berth s := by
  rw [takeRefs_eq]
  have same : (fun w => (look (mapTab (fun w (y : Window) => { y with refs := y.refs + l.count w }) s.windows) w).st)
      = fun w => (s.window w).st := funext fun w => by rw [look_mapTab]; rfl
  exact congrArg (·, _, _, _) same

theorem berth_presentAccess {t : State} {i : SNum} {k base len : Nat} {w : Option (List Byte)}
    (h : s.presentAccess i k base len w = .ok t) : berth t = berth s := by
  unfold State.presentAccess at h
  split at h
  · cases h
  · cases h
    rfl

@[simp] theorem berth_startChunk (i : SNum) (c : MemberCtx) (r : SubRecord) (op : Op) (b : Option BNum) :
    berth (s.startChunk i c r op b).1 = berth s := by
  unfold State.startChunk
  cases op
  case mark => rfl
  case copyIn => simp
  all_goals
    dsimp only
    split
    · rfl
    · split
      · simp
      next issued => simp [berth_presentAccess _ issued]

@[simp] theorem berth_waitForBuffer (i : SNum) (p : PNum) : berth (s.waitForBuffer i p) = berth s :=
  berth_withPart _ p _ fun _ => rfl

@[simp] theorem berth_startChunks (i : SNum) : berth (s.startChunks i).1 = berth s := by
  unfold State.startChunks
  dsimp only
  split
  · split
    · split
      · split
        · split <;> simp
        · split <;> simp
      · simp
    · rfl
  · rfl

@[simp] theorem berth_takeGrant (i : SNum) (b : BNum) : berth (s.takeGrant i b).1 = berth s := by
  unfold State.takeGrant
  dsimp only
  split
  · split_ifs <;> simp
  · rfl

@[simp] theorem berth_endChunk (i : SNum) (k : Nat) (b : Bool) : berth (s.endChunk i k b).1 = berth s := by
  unfold State.endChunk
  dsimp only
  split
  · rfl
  · split_ifs <;> simp

@[simp] theorem berth_writeChunk (i : SNum) (m : MemberCtx) (c : ChunkCtx) : berth (s.writeChunk i m c).1 = berth s := by
  unfold State.writeChunk
  dsimp only
  split
  · rfl
  · split
    · rfl
    next issued => simp [berth_presentAccess _ issued]

@[simp] theorem berth_takeTurn (i : SNum) : berth (s.takeTurn i).1 = berth s := by
  unfold State.takeTurn
  dsimp only
  split
  next op c _ _ _ _ =>
    by_cases turn : ((s.slot i).live && decide (c.phase = .held)) = true
    · rw [if_pos turn]
      cases op
      case copyOut =>
        dsimp only
        split_ifs
        · rfl
        · simp [State.handOverChunk]
        · rfl
      all_goals simp [State.enterCrc]
    · rw [if_neg turn]
  next => rfl

@[simp] theorem berth_afterEnd (i : SNum) : berth (s.afterEnd i).1 = berth s := by
  unfold State.afterEnd
  dsimp only
  split
  · rfl
  · split_ifs <;> rfl

@[simp] theorem berth_startMember (i : SNum) : berth (s.startMember i).1 = berth s := by
  unfold State.startMember
  dsimp only
  split
  · rfl
  · split_ifs
    · split <;> simp
    · rfl

@[simp] theorem berth_cutMember (i : SNum) : berth (s.cutMember i).1 = berth s := (rfl)

@[simp] theorem berth_failMember (i : SNum) (a : Status) (k : Nat) : berth (s.failMember i a k).1 = berth s := by
  unfold State.failMember
  dsimp only
  split <;> simp

@[simp] theorem berth_requestAbort (d : AbortDetail) (l : List SNum) : berth (s.requestAbort d l) = berth s := by
  induction l generalizing s with
  | nil => rfl
  | cons i l ih => simp [State.requestAbort, ih]

@[simp] theorem berth_abortRound (d : AbortDetail) (l : List SNum) : berth (s.abortRound d l).1 = berth s := by
  simp [State.abortRound]

@[simp] theorem berth_barrierRelease (p : PNum) : berth (s.barrierRelease p).1 = berth s := by
  unfold State.barrierRelease
  dsimp only
  split
  · split <;> simp
  · rfl

end Berth

/-! ### Operations that end something -/

section Ends
variable {ends : PNum → Prop} (s : State)

/-- R168: a report frees its entry, or is recorded in it in HALTED. -/
theorem onward_reportDeferred (o : DeferOp) (n : Nat) (a : AdminStatus) : Onward ends s (s.reportDeferred o n a) := by
  have set (j : Fin 8) (d : Option Deferred) (kept : ∀ e, d = some e → ∃ e', look s.admin.deferred j = some e' ∧ e'.post = e.post) :
      Onward ends s (s.setDeferred j d) := by
    refine ⟨fun _ e => e, fun _ => .of_standing rfl, fun k e found => ?_, fun _ _ => rfl⟩
    by_cases same : k = j
    · subst same
      exact kept e (by rwa [State.setDeferred, withAdmin_admin, look_upd_same] at found)
    · rw [State.setDeferred, withAdmin_admin, look_upd_ne _ _ _ _ same] at found
      exact ⟨e, found, rfl⟩
  unfold State.reportDeferred
  split
  · exact .refl s
  next j _ =>
    split
    · exact .refl s
    next d entry =>
      split
      · refine set j _ fun e given => ?_
        obtain rfl := Option.some.inj given
        exact ⟨d, entry, rfl⟩
      · have freed := set j none fun e given => by cases given
        dsimp only
        split
        · exact freed.before (berth_adminComplete ..)
        · exact freed

theorem onward_dropRef (w : WNum) : Onward ends s (s.dropRef w) := by
  have lowered : Onward ends s (s.withWindow w fun x => { x with refs := x.refs - 1 }) := by
    refine ⟨fun v e => ?_, fun _ => .of_standing rfl, fun j d e => ⟨d, e, rfl⟩, fun _ _ => rfl⟩
    by_cases same : v = w
    · subst same
      simpa using e
    · rwa [withWindow_window_ne _ _ _ _ same] at e
  have freed (u : State) : Onward ends u (u.withWindow w Window.freed) := by
    refine ⟨fun v e => ?_, fun _ => .of_standing rfl, fun j d e => ⟨d, e, rfl⟩, fun _ _ => rfl⟩
    by_cases same : v = w
    · subst same
      rw [withWindow_window_same] at e
      cases e
    · rwa [withWindow_window_ne _ _ _ _ same] at e
  unfold State.dropRef
  dsimp only
  split
  · split
    · exact (lowered.trans (freed _)).trans (onward_reportDeferred ..)
    · exact lowered.trans (freed _)
  · exact lowered

theorem onward_dropRefs (l : List WNum) : Onward ends s (s.dropRefs l) := by
  induction l generalizing s with
  | nil => exact .refl s
  | cons w l ih => exact (onward_dropRef s w).trans (ih _)

theorem berth_endMember (i : SNum) : berth (s.endMember i).1 = berth (s.dropRefs (refsOf s i)) := by
  unfold State.endMember refsOf
  dsimp only
  cases (s.slot i).ctx with
  | none =>
    dsimp only
    split
    · rfl
    · rfl
    · split_ifs <;> rfl
  | some c =>
    dsimp only
    split
    · rfl
    · rfl
    · split_ifs <;> rfl

theorem standing_count (y : Partition) (a : Status) (n : Nat) : standing (y.count a n).unreserve = standing y := by
  unfold Partition.unreserve Partition.count
  dsimp only
  split <;> rfl

/-- R97, R47: a group's answer moves the completion ring of a partition that has not faulted CQ_INDEX. -/
theorem onward_postGroup (i : SNum) (v : Verdict) : Onward ends s (s.postGroup i v) := by
  have counted (u : State) : berth (u.withPart (s.slot i).partition fun y => (y.count v.status (s.slot i).bytesDone).unreserve)
      = berth u := berth_withPart _ _ _ fun y => standing_count y v.status (s.slot i).bytesDone
  have advances (notBroken : (s.part (s.slot i).partition).faultCause ≠ some .cqIndex) (u : State) (same : berth u = berth s) :
      Onward ends s (u.withPart (s.slot i).partition Partition.advanceCq) := by
    refine .after same (onward_withPart ⟨.inl rfl, rfl, rfl, rfl, fun _ => rfl, fun _ broken => ?_⟩)
    have cause : (u.part (s.slot i).partition).faultCause = (s.part (s.slot i).partition).faultCause :=
      congrArg (fun b => (b.2.1 (s.slot i).partition).2.1) same
    exact absurd (cause.symm.trans broken) notBroken
  unfold State.postGroup
  dsimp only
  split
  · exact .of_berth ((counted _).trans (berth_withSlot ..))
  next writes =>
    exact (advances (fun broken => writes (decide_eq_true broken)) _
      ((berth_postWrite ..).trans ((counted _).trans (berth_withSlot ..)))).before (berth_newRecord ..)

/-- R42, R37: the last slot of a QUIESCING partition leaves it QUIESCED. -/
theorem onward_freeSlot (i : SNum) : Onward ends s (s.freeSlot i).1 := by
  have lowered (u : State) : berth (u.withPart (s.slot i).partition fun y => { y with slotsHeld := y.slotsHeld - 1 }) = berth u :=
    berth_withPart _ _ _ fun _ => rfl
  unfold State.freeSlot
  dsimp only
  split_ifs with quiescing closing
  · obtain ⟨-, quiescing⟩ := quiescing
    refine .after ((lowered _).trans (berth_withSlot s i fun _ => Slot.free)) (.trans (onward_withPart ?_) (onward_reportDeferred ..))
    exact .of_taking (.inr (.inl quiescing)) (by simp) ⟨rfl, rfl, rfl⟩
  all_goals exact .of_berth ((lowered _).trans (berth_withSlot ..))

theorem onward_tryRelease (i : SNum) : Onward ends s (s.tryRelease i).1 := by
  unfold State.tryRelease
  dsimp only
  split
  · exact onward_freeSlot s i
  · exact .refl s

theorem onward_returnSlot (i : SNum) : Onward ends s (s.returnSlot i).1 := by
  have released (u : State) (p : PNum) : berth (u.withPart p Partition.unreserve) = berth u := berth_withPart _ _ _ fun _ => rfl
  exact .after ((released _ _).trans (berth_withAssembling ..)) (onward_freeSlot ..)

theorem onward_endClosing (p : PNum) (may : ends p) : Onward ends s (s.endClosing p).1 :=
  onward_withPart ⟨.inr (.inr ⟨may, rfl⟩), rfl, rfl, rfl, fun _ => rfl, fun _ _ => ⟨rfl, rfl⟩⟩

theorem onward_answerClose (p : PNum) : Onward ends s (s.answerClose p) := by
  have judged (posts : Bool) : Onward ends s (if posts = true then s.evalWatermark else s) := by
    split
    · exact .of_berth (berth_evalWatermark s)
    · exact .refl s
  unfold State.answerClose
  split
  · exact .refl s
  · exact .trans (judged _) (onward_reportDeferred ..)

/-- R64: the reads of a slot's records lose it; a tag that is not BUSY has no read. -/
theorem onward_orphanReads (i : SNum) : Onward ends s (s.orphanReads i) := by
  refine ⟨fun _ e => e, fun _ => .of_standing rfl, fun j d e => ⟨d, e, rfl⟩, fun n idle => ?_⟩
  have entry : (s.orphanReads i).tag n = (s.tag n).orphaned i := look_mapTab ..
  rw [entry]
  cases tag : s.tag n with
  | busy => rw [tag] at idle; cases idle
  | _ => rfl

theorem onward_takeAbort (i : SNum) (d : AbortDetail) : Onward ends s (s.takeAbort i d).1 := by
  unfold State.takeAbort
  dsimp only
  cases (s.slot i).st with
  | assembling =>
    dsimp only
    have left := (onward_orphanReads (ends := ends) s i).before (berth_withAssembling _ (s.slot i).partition none)
    split_ifs
    all_goals exact left
  | running => exact .of_berth (berth_cutMember s i)
  | _ => exact .refl s

/-- R46: a fault is taken where the partition has not closed, begun to close or faulted already. -/
theorem onward_takeFault (p : PNum) (c : FaultCause) : Onward ends s (s.takeFault p c).1 := by
  unfold State.takeFault
  split
  case h_1 st | h_2 st | h_3 st =>
    refine .before (onward_withPart ?_) (berth_abortRound ..)
    exact .of_taking (by simp [st]) (by simp) ⟨rfl, rfl, rfl⟩
  all_goals exact .refl s

theorem onward_reportFault (p : PNum) (c : FaultCause) : Onward ends s (s.reportFault p c) :=
  .trans (.after (berth_handOver ..) (onward_reportDeferred ..)) (onward_withPart (.of_standing rfl))

theorem onward_doWork (w : Work) (may : ∀ p, w = .endClosing p → ends p) : Onward ends s (s.doWork w).1 := by
  cases w with
  | endMember i => exact (onward_dropRefs s _).before (berth_endMember s i)
  | post i v => exact onward_postGroup s i v
  | release98 i => exact onward_tryRelease s i
  | returnSlot i => exact onward_returnSlot s i
  | endClosing p => exact onward_endClosing s p (may p rfl)
  | answerClose p => exact onward_answerClose s p
  | abort i => exact onward_takeAbort s i _
  | fault p c => exact onward_takeFault s p c
  | reportFault p c => exact onward_reportFault s p c
  | _ => exact .of_berth (by simp [State.doWork, State.completionIssued])

end Ends

/-! ### The inner events of a step -/

section Works
variable {ends : PNum → Prop} (s : State)

theorem no_endClosing_bufferRelease (q p : PNum) (c : ChunkCtx) : Work.endClosing q ∉ bufferRelease p c := by
  unfold bufferRelease
  split <;> simp

/-- R40: the end of a closing comes with the last slot of a CLOSING partition. -/
theorem endClosing_of_freeSlot {i : SNum} {p : PNum} (comes : Work.endClosing p ∈ (s.freeSlot i).2) :
    ((s.freeSlot i).1.part p).st = .closing := by
  unfold State.freeSlot at comes ⊢
  dsimp only at comes ⊢
  split_ifs at comes ⊢ with quiescing closing
  · cases comes
  · obtain rfl : p = (s.slot i).partition := by simpa using comes
    exact closing.2
  · simp at comes

theorem endClosing_of_tryRelease {i : SNum} {p : PNum} (comes : Work.endClosing p ∈ (s.tryRelease i).2) :
    ((s.tryRelease i).1.part p).st = .closing := by
  unfold State.tryRelease at comes ⊢
  dsimp only at comes ⊢
  split_ifs at comes ⊢
  · exact endClosing_of_freeSlot s comes
  · cases comes

theorem no_endClosing_endChunk (q : PNum) (i : SNum) (k : Nat) (b : Bool) : Work.endClosing q ∉ (s.endChunk i k b).2 := by
  unfold State.endChunk
  dsimp only
  split
  · simp
  · split_ifs <;> simp [no_endClosing_bufferRelease]

theorem no_endClosing_startChunk (q : PNum) (i : SNum) (c : MemberCtx) (r : SubRecord) (op : Op) (b : Option BNum) :
    Work.endClosing q ∉ (s.startChunk i c r op b).2 := by
  unfold State.startChunk
  cases op
  case mark | copyIn => simp
  all_goals
    dsimp only
    split
    · simp
    · split <;> simp

theorem no_endClosing_startChunks (q : PNum) (i : SNum) : Work.endClosing q ∉ (s.startChunks i).2 := by
  unfold State.startChunks
  dsimp only
  split
  · split_ifs
    · split
      · exact no_endClosing_startChunk _ q i _ _ _ _
      · simp
    · simp
    · simp
    · exact no_endClosing_startChunk _ q i _ _ _ _
    · simp
  · simp

theorem no_endClosing_writeChunk (q : PNum) (i : SNum) (m : MemberCtx) (c : ChunkCtx) : Work.endClosing q ∉ (s.writeChunk i m c).2 := by
  unfold State.writeChunk
  dsimp only
  split
  · simp
  · split <;> simp

theorem no_endClosing_takeTurn (q : PNum) (i : SNum) : Work.endClosing q ∉ (s.takeTurn i).2 := by
  unfold State.takeTurn
  dsimp only
  split
  next op c _ _ _ _ =>
    by_cases turn : ((s.slot i).live && decide (c.phase = .held)) = true
    · rw [if_pos turn]
      cases op
      case copyOut =>
        dsimp only
        split_ifs
        · simp
        · exact no_endClosing_endChunk _ q i _ _
        · simp
      case digest => exact no_endClosing_endChunk _ q i _ _
      case copyIn | move => exact no_endClosing_writeChunk s q i _ _
      all_goals simp
    · rw [if_neg turn]
      simp
  next => simp

theorem no_endClosing_cutMember (q : PNum) (i : SNum) : Work.endClosing q ∉ (s.cutMember i).2 := by
  unfold State.cutMember
  dsimp only
  split_ifs <;> simp [no_endClosing_bufferRelease]

theorem no_endClosing_endMember (q : PNum) (i : SNum) : Work.endClosing q ∉ (s.endMember i).2 := by
  unfold State.endMember
  dsimp only
  split
  · simp
  · simp
  · split_ifs <;> simp

theorem no_endClosing_startMember (q : PNum) (i : SNum) : Work.endClosing q ∉ (s.startMember i).2 := by
  unfold State.startMember
  dsimp only
  split
  · simp
  · split_ifs
    · split
      · simp
      · split_ifs <;> simp
    · simp

theorem no_endClosing_afterEnd (q : PNum) (i : SNum) : Work.endClosing q ∉ (s.afterEnd i).2 := by
  unfold State.afterEnd
  dsimp only
  split
  · simp
  · split_ifs <;> simp

theorem no_endClosing_takeGrant (q : PNum) (i : SNum) (b : BNum) : Work.endClosing q ∉ (s.takeGrant i b).2 := by
  unfold State.takeGrant
  dsimp only
  split
  · split
    · exact no_endClosing_startChunk _ q i _ _ _ _
    · simp
  · simp

theorem no_endClosing_failMember (q : PNum) (i : SNum) (a : Status) (d : Nat) : Work.endClosing q ∉ (s.failMember i a d).2 := by
  unfold State.failMember
  dsimp only
  split
  · exact no_endClosing_cutMember _ q i
  · simp

theorem no_endClosing_barrierRelease (q p : PNum) : Work.endClosing q ∉ (s.barrierRelease p).2 := by
  unfold State.barrierRelease
  split
  · dsimp only
    split_ifs <;> simp
  · simp

theorem no_endClosing_takeAbort (q : PNum) (i : SNum) (d : AbortDetail) : Work.endClosing q ∉ (s.takeAbort i d).2 := by
  unfold State.takeAbort
  dsimp only
  cases (s.slot i).st with
  | assembling =>
    dsimp only
    split_ifs <;> simp
  | running => exact no_endClosing_cutMember s q i
  | _ => simp

theorem no_endClosing_takeFault (q p : PNum) (c : FaultCause) : Work.endClosing q ∉ (s.takeFault p c).2 := by
  unfold State.takeFault
  split
  all_goals simp [State.abortRound]

/-- R40: whichever inner event brings the end of a closing about, the partition is CLOSING then. -/
theorem endClosing_of_doWork {w : Work} {p : PNum} (comes : Work.endClosing p ∈ (s.doWork w).2) :
    ((s.doWork w).1.part p).st = .closing := by
  cases w with
  | release98 i => exact endClosing_of_tryRelease s comes
  | returnSlot i => exact endClosing_of_freeSlot _ comes
  | startMember i => exact absurd comes (no_endClosing_startMember s p i)
  | startChunks i => exact absurd comes (no_endClosing_startChunks s p i)
  | turn i => exact absurd comes (no_endClosing_takeTurn s p i)
  | afterEnd i => exact absurd comes (no_endClosing_afterEnd s p i)
  | grant i b => exact absurd comes (no_endClosing_takeGrant s p i b)
  | fail i a d => exact absurd comes (no_endClosing_failMember s p i a d)
  | endMember i => exact absurd comes (no_endClosing_endMember s p i)
  | barrier q => exact absurd comes (no_endClosing_barrierRelease s p q)
  | abort i => exact absurd comes (no_endClosing_takeAbort s p i _)
  | fault q c => exact absurd comes (no_endClosing_takeFault s p q c)
  | release | pass | post | completionIssued | endClosing | answerClose | reportFault =>
    simp [State.doWork, State.completionIssued, State.endClosing] at comes

/-- R192: a parity error leaves what stands; the tags that are BUSY are quarantined. -/
theorem onward_enterHalted (c : HaltCause) : Onward ends s (s.enterHalted c) := by
  refine ⟨fun _ e => e, fun _ => .of_standing rfl, fun j d e => ⟨d, e, rfl⟩, fun n idle => ?_⟩
  have entry : (s.enterHalted c).tag n = (s.tag n).onHalt := look_mapTab ..
  rw [entry]
  cases tag : s.tag n with
  | busy => rw [tag] at idle; cases idle
  | _ => rfl

theorem onward_workStep (w : Work) (may : ∀ p, w = .endClosing p → ends p) : Onward ends s (s.workStep w).1 := by
  unfold State.workStep
  split
  · exact .refl s
  · dsimp only
    split
    · exact onward_enterHalted s _
    · exact onward_doWork s w may

theorem endClosing_of_workStep {w : Work} {p : PNum} (comes : Work.endClosing p ∈ (s.workStep w).2) :
    ((s.workStep w).1.part p).st = .closing := by
  unfold State.workStep at comes ⊢
  split at comes
  · cases comes
  next live =>
    rw [if_neg live]
    dsimp only at comes ⊢
    split at comes
    · cases comes
    · exact endClosing_of_doWork s comes

/-- R191, R40: the inner events of a step end no closing but of partitions that are CLOSING or whose end is among them. -/
theorem onward_settle (n : Nat) (ws : List Work) (listed : ∀ p, Work.endClosing p ∈ ws → ends p)
    (closing : ∀ p, (s.part p).st = .closing → ends p) : Onward ends s (State.settle n s ws) := by
  induction n generalizing s ws with
  | zero => exact .refl s
  | succ n ih =>
    cases ws with
    | nil => exact .refl s
    | cons w ws =>
      have first : Onward ends s (s.workStep w).1 := onward_workStep s w fun p same => listed p (same ▸ List.mem_cons_self ..)
      have still (p : PNum) (now : ((s.workStep w).1.part p).st = .closing) : ends p := by
        rcases (first.parts p).st with same | ⟨-, -, notClosing⟩ | ⟨-, closed⟩
        · exact closing p (same.symm.trans now)
        · exact absurd now notClosing
        · cases closed.symm.trans now
      refine first.trans (ih _ _ (fun p comes => ?_) still)
      rcases List.mem_append.mp comes with new | old
      · exact still p (endClosing_of_workStep s new)
      · exact listed p (List.mem_cons_of_mem _ old)

end Works

end Sys2Proof.Machine.Proofs
end

section
/-! Faults of a partition (R45, R46, R63, R171) and failed host reads (R178, R179): O12, O43. -/

namespace Sys2Proof.Machine.Proofs

open Laws

/-! ### Changes of one partition entry -/

section WithPart
variable {s : State} {p : PNum}

theorem withPart_withPart (f g : Partition → Partition) : (s.withPart p f).withPart p g = s.withPart p fun y => g (f y) := by
  refine congrArg (fun parts => { s with parts }) (table_ext _ _ fun q => ?_)
  by_cases same : q = p
  · subst same
    simp
  · exact (look_upd_ne _ _ _ _ same).trans ((look_upd_ne _ _ _ _ same).trans (look_upd_ne _ _ _ _ same).symm)

theorem react_withPart (f : Partition → Partition) (n : VNum) (r : Reaction) :
    (s.withPart p f).react n r = (s.react n r).withPart p f := by
  unfold State.react
  dsimp only
  split <;> rfl

theorem newRecord_withPart (f : Partition → Partition) (n : VNum) (u : Bool) :
    (s.withPart p f).newRecord n u = (s.newRecord n u).withPart p f := react_withPart ..

theorem handOver_withPart (f : Partition → Partition) (e : Event) : (s.withPart p f).handOver e = (s.handOver e).withPart p f := by
  have takes : (s.withPart p f).events.takes = s.events.takes := rfl
  unfold State.handOver
  rw [takes]
  split
  · exact newRecord_withPart (s := (s.postWrite _).withEvents EventRing.advance) ..
  · rfl

end WithPart

/-! ### What a step leaves of a partition that has faulted -/

section Step
variable {d : Device} {s : State} {p : PNum} {before n : Nat} {ws : List Work}

/-- In a state with good tables the first inner event is carried out. -/
theorem settle_first (intact : Intact d s) (outsideHalted : d.st ≠ .halted) (w : Work) :
    State.settle (n + 1) s (w :: ws) = State.settle n (s.doWork w).1 ((s.doWork w).2 ++ ws) := by
  obtain ⟨device, slots, windows, parts⟩ := intact
  rw [settle_cons, workStep_allGood slots windows parts w (decide_eq_false (device ▸ outsideHalted))]

@[simp] theorem berth_endStop : berth s.endStop = berth s := by
  unfold State.endStop
  split <;> rfl

/-- A partition whose closing does not end in a step. -/
theorem partOnward_settle (notListed : Work.endClosing p ∉ ws) (notClosing : (s.part p).st ≠ .closing) :
    PartOnward False (s.part p) ((State.settle n s ws).part p) := by
  have onward := (onward_settle (ends := fun q => q ≠ p) s n ws (fun q listed same => notListed (same ▸ listed))
    fun q closing same => notClosing (same ▸ closing)).parts p
  simpa using onward

theorem standing_finish (q : PNum) :
    standing ((s.finish before ws).part q) = standing ((State.settle Config.innerBound s ws).part q) :=
  congrFun (congrArg (fun b => b.2.1) ((berth_endStop ..).trans (berth_reevaluate ..))) q

/-- R179: a tag that is not BUSY when a step's inner events begin keeps still in them. -/
theorem tag_finish {t : TNum} (idle : (s.tag t).isBusy = false) : (s.finish before ws).tag t = s.tag t := by
  have onward := onward_settle (ends := fun _ => True) s Config.innerBound ws (fun _ _ => trivial) fun _ _ => trivial
  have after : berth (s.finish before ws) = berth (State.settle Config.innerBound s ws) := (berth_endStop ..).trans (berth_reevaluate ..)
  exact (onward.before after).tags t idle

/-- The partition takes records, or is about to end its quiesce: R46 lets it fault. -/
def Taking (a : PartState) : Prop := a = .opened ∨ a = .quiescing ∨ a = .quiesced

theorem takeFault_takes {c : FaultCause} (taking : Taking (s.part p).st) :
    s.takeFault p c = ((((s.withPart p fun y => { y with st := .faulted, faultCause := some c }).abortRound .partitionFault
        (s.slotsOf p)).1),
      ((s.withPart p fun y => { y with st := .faulted, faultCause := some c }).abortRound .partitionFault (s.slotsOf p)).2
        ++ [.reportFault p c]) := by
  unfold State.takeFault
  rcases taking with h | h | h <;> simp only [h]

/-- R46: what the step of a fault leaves of the partition entry. -/
structure FaultedBy (c : FaultCause) (y z : Partition) : Prop where
  st : z.st = .faulted
  cause : z.faultCause = some c
  sqHead : z.sqHead = y.sqHead
  sqTail : z.sqTail = y.sqTail
  cqHead : z.cqHead = y.cqHead
  ring : c = .cqIndex → z.cqTail = y.cqTail ∧ z.cqPass = y.cqPass

theorem FaultedBy.of_standing {c : FaultCause} {x y z : Partition} (h : FaultedBy c x y) (same : standing z = standing y) :
    FaultedBy c x z := by
  simp only [standing, Prod.mk.injEq] at same
  obtain ⟨st, cause, sqHead, sqTail, cqHead, cqTail, cqPass⟩ := same
  refine ⟨st.trans h.st, cause.trans h.cause, sqHead.trans h.sqHead, sqTail.trans h.sqTail, cqHead.trans h.cqHead, fun e => ?_⟩
  obtain ⟨tail, pass⟩ := h.ring e
  exact ⟨cqTail.trans tail, cqPass.trans pass⟩

theorem FaultedBy.onward {c : FaultCause} {x y z : Partition} (h : FaultedBy c x y) (k : PartOnward False y z) : FaultedBy c x z := by
  have spent : Spent y.st := .inl h.st
  have stays : z.st = .faulted := by
    rcases k.st with same | ⟨⟨-, -, notFaulted⟩, -⟩ | ⟨never, -⟩
    · exact same.trans h.st
    · exact absurd h.st notFaulted
    · exact never.elim
  refine ⟨stays, (k.cause spent).trans h.cause, k.sqHead.trans h.sqHead, k.sqTail.trans h.sqTail, k.cqHead.trans h.cqHead, fun e => ?_⟩
  obtain ⟨tail, pass⟩ := h.ring e
  obtain ⟨tail', pass'⟩ := k.ring spent (h.cause.trans (congrArg some e))
  exact ⟨tail'.trans tail, pass'.trans pass⟩

/-- R46, R47: a fault taken leaves the partition FAULTED with its cause, and its rings where they stood. -/
theorem faultedBy_settle {c : FaultCause} (intact : Intact d s) (outsideHalted : d.st ≠ .halted) (taking : Taking (s.part p).st)
    (notListed : Work.endClosing p ∉ ws) : FaultedBy c (s.part p) ((State.settle (n + 1) s (.fault p c :: ws)).part p) := by
  let v := (s.withPart p fun y => { y with st := .faulted, faultCause := some c }).abortRound .partitionFault (s.slotsOf p)
  have entry : standing (v.1.part p) = standing { s.part p with st := .faulted, faultCause := some c } :=
    (congrFun (congrArg (fun b => b.2.1) (berth_abortRound ..)) p).trans (congrArg standing (withPart_part_same ..))
  have taken : FaultedBy c (s.part p) { s.part p with st := .faulted, faultCause := some c } :=
    ⟨rfl, rfl, rfl, rfl, rfl, fun _ => ⟨rfl, rfl⟩⟩
  have first : FaultedBy c (s.part p) (v.1.part p) := taken.of_standing entry
  have acts : s.doWork (.fault p c) = (v.1, v.2 ++ [.reportFault p c]) := takeFault_takes taking
  rw [settle_first intact outsideHalted, acts]
  refine first.onward (partOnward_settle ?_ ?_)
  · simp [v, State.abortRound, notListed]
  · rw [first.st]
    decide

/-- R46: the same at the end of the step. -/
theorem faultedBy_finish {c : FaultCause} (intact : Intact d s) (outsideHalted : d.st ≠ .halted) (taking : Taking (s.part p).st) :
    FaultedBy c (s.part p) ((s.finish before [.fault p c]).part p) :=
  (faultedBy_settle intact outsideHalted taking (n := 16383) (by simp)).of_standing (standing_finish p)

end Step

/-! ### A bad ring index -/

theorem deferredAt_of_berth {s t : State} {o : DeferOp} {n : Nat} (same : berth t = berth s) : t.deferredAt o n = s.deferredAt o n := by
  have entries : t.admin.deferred = s.admin.deferred := congrArg (fun b => b.2.2.1) same
  rw [State.deferredAt, State.deferredAt, entries]

section BadIndex
variable {s : State} {p : PNum} {c : FaultCause}

/-- R45, R46: with no slot to abort and no quiesce pending, the fault and its event are all that happens. -/
theorem finish_quietFault (running : s.device.st = .running) (good : TablesGood s) (taking : Taking (s.part p).st)
    (noSlots : ∀ i, (s.slot i).st ≠ .free → (s.slot i).partition ≠ p) (noQuiesce : s.deferredAt .partitionQuiesce p.val = none) :
    s.finish s.sharedFree [.fault p c] = ({ s with draws := s.draws + 1 }.withPart p fun y =>
      { y with st := .faulted, faultCause := some c, pendingTag := none }).handOver (.partitionFault p c) := by
  let v := (s.withPart p fun y => { y with st := .faulted, faultCause := some c }).drawn
  have none : s.slotsOf p = [] := by
    refine List.eq_nil_iff_forall_not_mem.mpr fun i member => ?_
    have facts : (s.slot i).occupied = true ∧ (s.slot i).partition = p := by simpa using mem_which.mp member
    obtain ⟨occupied, mine⟩ := facts
    exact noSlots i (by simpa [Slot.occupied] using occupied) mine
  have acts : s.doWork (.fault p c) = (v, [.reportFault p c]) := by
    refine (takeFault_takes taking).trans ?_
    rw [none]
    rfl
  have absent : (v.handOver (.partitionFault p c)).deferredAt .partitionQuiesce p.val = .none :=
    (deferredAt_of_berth (berth_handOver ..)).trans noQuiesce
  have reported : v.doWork (.reportFault p c) = ((v.handOver (.partitionFault p c)).withPart p fun y => { y with pendingTag := .none }, []) :=
    congrArg (fun t : State => (t.withPart p fun y => { y with pendingTag := .none }, ([] : List Work))) (reportDeferred_absent _ _ _ _ absent)
  have chain := settles_cons acts (settles_cons reported (settles_nil _))
  have deficit : ({ s.part p with st := .faulted, faultCause := some c } : Partition).deficit = (s.part p).deficit := by
    simp only [deficit_eq]
    rcases taking with h | h | h <;> rw [h] <;> rfl
  have share : purse ((v.handOver (.partitionFault p c)).withPart p fun y => { y with pendingTag := .none }) = purse s :=
    (purse_withPart _ _ _ rfl).trans ((purse_handOver ..).trans (purse_withPart s p _ deficit))
  rw [finish_chain ⟨rfl, good⟩ (by simp [running]) chain (by decide) (by simp [running]), reevaluate_same _ _ (sharedFree_of_purse share),
    ← handOver_withPart]
  exact congrArg (State.handOver · _) (withPart_withPart (s := { s with draws := s.draws + 1 })
    (fun y => { y with st := .faulted, faultCause := some c }) fun y => { y with pendingTag := .none })

end BadIndex

/-- Settles O12: the fault's inner event sets the cause, and nothing after it touches the rings. -/
theorem badIndexFaultsPartition : Obligations.BadIndexFaultsPartition := by
  intro s p index y faulted quiet badHead running good taking
  have outsideHalted : s.device.st ≠ .halted := by simp [running]
  have intact : Intact s.device s := ⟨rfl, good⟩
  have tail (outOfRange : y.sqSize ≤ index.toNat) :
      exec (.notifySqTail p index) s = .next (s.finish s.sharedFree [.fault p .sqIndex]) := by
    refine congrArg Host.Outcome.next ?_
    rw [notifyPart_taken running (good.2.2 p), takeSqTail_faults taking outOfRange]
  have head (bad : badHead) : exec (.notifyCqHead p index) s = .next (s.finish s.sharedFree [.fault p .cqIndex]) := by
    refine congrArg Host.Outcome.next ?_
    rw [notifyPart_taken running (good.2.2 p), takeCqHead_faults taking bad]
  refine ⟨fun outOfRange => ⟨_, tail outOfRange, ?_⟩, fun bad => ⟨_, head bad, ?_⟩, fun outOfRange quiet => ?_, fun bad quiet => ?_⟩
  · obtain ⟨st, cause, sqHead, sqTail, -, -⟩ := faultedBy_finish (before := s.sharedFree) (c := .sqIndex) intact outsideHalted taking
    exact ⟨st, cause, sqTail, sqHead⟩
  · obtain ⟨st, cause, -, -, cqHead, ring⟩ := faultedBy_finish (before := s.sharedFree) (c := .cqIndex) intact outsideHalted taking
    exact ⟨st, cause, cqHead, ring rfl⟩
  · obtain ⟨noSlots, noQuiesce⟩ := quiet
    exact (tail outOfRange).trans (congrArg Host.Outcome.next (finish_quietFault running good taking noSlots noQuiesce))
  · obtain ⟨noSlots, noQuiesce⟩ := quiet
    exact (head bad).trans (congrArg Host.Outcome.next (finish_quietFault running good taking noSlots noQuiesce))

/-! ### Host reads that fail -/

section Failures
variable {s : State} {n : TNum} {q : ReadRequest} {got : List (Option Byte)} {left limit : Nat}

theorem exec_errorResponse (live : s.device.st ≠ .halted) (busy : s.tag n = .busy q got left limit) :
    exec (.hostReadErrorResponse n) s = .next ((s.withTag n fun _ => .free).deliverFailure q .errorResponse) := by
  refine congrArg Host.Outcome.next ?_
  rw [onLink_busy live busy]

theorem exec_timeout (live : s.device.st ≠ .halted) (busy : s.tag n = .busy q got left limit) :
    exec (.hostReadTimeout n) s = .next (((s.elapse left).withTag n fun _ => .quarantined limit).deliverFailure q .timeout) := by
  refine congrArg Host.Outcome.next ?_
  rw [onLink_busy live busy]

variable {i : SNum} {p : PNum} {a : Assembling} {f : ReadFailure}

/-- R63: the slot whose member 0 was never read returns, and the partition stays OPEN for the fault. -/
theorem returnSlot_opened (mine : (s.slot i).partition = p) (opened : (s.part p).st = .opened) :
    s.doWork (.returnSlot i) = ((((s.withAssembling p none).withPart p Partition.unreserve).withSlot i fun _ => Slot.free).withPart p
      fun y => { y with slotsHeld := y.slotsHeld - 1 }, [.barrier p]) := by
  subst mine
  have slot : ((s.withAssembling (s.slot i).partition none).withPart (s.slot i).partition Partition.unreserve).slot i = s.slot i := rfl
  have st (u : State) (g : Slot → Slot) : ((((u.withPart (s.slot i).partition Partition.unreserve).withSlot i g).withPart
      (s.slot i).partition fun y => { y with slotsHeld := y.slotsHeld - 1 }).part (s.slot i).partition).st
      = (u.part (s.slot i).partition).st := by
    rw [withPart_part_same, withSlot_part, withPart_part_same]
    rfl
  have stays := (st (s.withAssembling (s.slot i).partition none) fun _ => Slot.free).trans opened
  simp only [State.doWork, State.returnSlot, State.freeSlot, slot]
  rw [if_neg fun h => (by cases stays.symm.trans h.2), if_neg fun h => (by cases stays.symm.trans h.2)]

/-- R63: with no group of the partition in WAIT_ORDER, the slot's return lets none run. -/
theorem barrier_idle {u : State} (none : ∀ j, (u.slot j).partition = p → (u.slot j).st ≠ .waitOrder) :
    u.doWork (.barrier p) = (u, []) := by
  simp only [State.doWork, State.barrierRelease]
  split
  next j alone =>
    have member : j ∈ u.slotsOf p := by
      unfold State.alone at alone
      split at alone
      next i slots =>
        obtain rfl : i = j := by simpa using alone
        simp [slots]
      next => cases alone
    have mine : (u.slot j).partition = p := by
      have facts := mem_which.mp member
      simp only [Bool.and_eq_true, decide_eq_true_eq] at facts
      exact facts.2
    exact if_neg fun h => none j mine h.1
  next => rfl

/-- R63, R178: what a failed record read of an OPEN partition leaves of its entry. -/
theorem faultedBy_recordFailure (running : s.device.st = .running) (good : TablesGood s) (mine : (s.slot i).partition = p)
    (opened : (s.part p).st = .opened) (none : ∀ j, (s.slot j).partition = p → (s.slot j).st ≠ .waitOrder) :
    FaultedBy .fetchError (s.part p)
      (((s.recordFailure p i a).1.finish s.sharedFree (s.recordFailure p i a).2).part p) := by
  let v := s.withAssembling p (some { a with readOutstanding := false })
  have outsideHalted : s.device.st ≠ .halted := by simp [running]
  have intact : Intact s.device v := ⟨rfl, good⟩
  have failure : s.recordFailure p i a
      = (v, (if (v.slot i).members.isEmpty then [.returnSlot i] else []) ++ [.fault p .fetchError]) := rfl
  rw [failure]
  dsimp only
  split
  · let r := ((((v.withAssembling p .none).withPart p Partition.unreserve).withSlot i fun _ => Slot.free).withPart p
      fun y => { y with slotsHeld := y.slotsHeld - 1 })
    have returned : v.doWork (.returnSlot i) = (r, [.barrier p]) := returnSlot_opened mine opened
    have intactR : Intact s.device r := by
      have := intact.doWork (.returnSlot i)
      rwa [returned] at this
    have entry : r.part p = { s.part p with cqReserved := (s.part p).cqReserved - 1, slotsHeld := (s.part p).slotsHeld - 1 } := by
      rw [withPart_part_same, withSlot_part, withPart_part_same]
      rfl
    have idle : r.doWork (.barrier p) = (r, []) := by
      refine barrier_idle fun j mine => ?_
      by_cases same : j = i
      · subst same
        rw [show r.slot j = Slot.free from withSlot_slot_same ..]
        decide
      · have kept : r.slot j = s.slot j := withSlot_slot_ne _ _ _ _ same
        rw [kept] at mine ⊢
        exact none j mine
    refine FaultedBy.of_standing ?_ (standing_finish p)
    have runs : State.settle Config.innerBound v ([.returnSlot i] ++ [.fault p .fetchError])
        = State.settle 16382 r [.fault p .fetchError] := by
      have first := settle_first (n := 16383) (ws := [.fault p .fetchError]) intact outsideHalted (.returnSlot i)
      rw [returned] at first
      have second := settle_first (n := 16382) (ws := [.fault p .fetchError]) intactR outsideHalted (.barrier p)
      rw [idle] at second
      exact first.trans second
    rw [runs]
    have faulted := faultedBy_settle (n := 16381) (ws := []) (c := .fetchError) (p := p) intactR outsideHalted
      (by rw [entry]; exact .inl opened) (by simp)
    rw [entry] at faulted
    obtain ⟨st, cause, sqHead, sqTail, cqHead, ring⟩ := faulted
    exact ⟨st, cause, sqHead, sqTail, cqHead, ring⟩
  · exact faultedBy_finish (s := v) intact outsideHalted (.inl opened)

end Failures

theorem blocks_elapse (s : State) (k : Nat) : blocks (s.elapse k) = blocks s := by
  unfold State.elapse
  dsimp only
  split <;> rfl

theorem elapse_admin (s : State) (k : Nat) : (s.elapse k).admin = s.admin := by
  unfold State.elapse
  dsimp only
  split <;> rfl

/-- Settles O43: each failure is handed to its requester, the administrative channel, a slot that assembles, or nobody. -/
theorem readsFail : Obligations.ReadsFail := by
  intro s n fetchFault running
  have live : s.device.st ≠ .halted := by simp [running]
  refine ⟨fun q got left limit busy admin normal outstanding => ?_, ?_, fun q got left limit busy orphan => ?_,
    fun left quarantined => congrArg Host.Outcome.next (by rw [quarantined])⟩
  · have fails (t : State) (f : ReadFailure) (st : t.device.st = .running) (kept : t.admin = s.admin) :
        t.deliverFailure q f = fetchFault t := by
      have commandLive : t.commandLive = true := by simp [State.commandLive, State.running, st, kept, normal, outstanding]
      rw [State.deliverFailure, admin]
      dsimp only
      rw [State.commandFailure, if_pos commandLive, channelFault_normal (by rw [kept, normal])]
    rw [exec_errorResponse live busy, exec_timeout live busy, fails (s.withTag n _) _ running rfl,
      fails ((s.elapse left).withTag n _) _ ((congrArg Device.st (device_of_blocks (blocks_elapse s left))).trans running) (elapse_admin s left)]
    exact ⟨rfl, rfl⟩
  · intro q got left limit i a busy record good assembles p found mine reads opened noneWaits faulted
    have fails (t : State) (f : ReadFailure) (same : blocks t = blocks s) (idle : (t.tag n).isBusy = false) :
        faulted (t.deliverFailure q f) ∧ (t.deliverFailure q f).tag n = t.tag n := by
      have slot (j : SNum) : t.slot j = s.slot j := slot_of_blocks same j
      have part (r : PNum) : t.part r = s.part r := part_of_blocks same r
      have goodT : TablesGood t := by
        obtain ⟨goodSlots, goodWindows, goodParts⟩ := good
        refine ⟨fun j => ?_, fun w => ?_, fun r => ?_⟩
        · rw [slot]
          exact goodSlots j
        · rw [window_of_blocks same]
          exact goodWindows w
        · rw [part]
          exact goodParts r
      have awaits : t.awaitsRecord i = some (p, a) := by
        have found : t.assembling (s.slot i).partition = some a := by rwa [assembling_of_blocks same]
        simp [State.awaitsRecord, slot, found, mine, reads, assembles, p]
      have runs : t.deliverFailure q f = (t.recordFailure p i a).1.finish t.sharedFree (t.recordFailure p i a).2 := by
        rw [State.deliverFailure, record]
        dsimp only
        rw [awaits]
        exact atSlot_good goodT
      have result := faultedBy_recordFailure (a := a) (i := i) (p := p) (device_of_blocks same ▸ running) goodT (by rw [slot]) (by rw [part, opened])
        fun j mine => by rw [slot] at mine ⊢; exact noneWaits j mine
      rw [← runs, part] at result
      obtain ⟨st, cause, sqHead, -, -, -⟩ := result
      refine ⟨⟨st, cause, sqHead⟩, ?_⟩
      rw [runs]
      exact tag_finish idle
    have freed : (s.withTag n fun _ => .free).tag n = .free := withTag_tag_same ..
    have quarantined : ((s.elapse left).withTag n fun _ => .quarantined limit).tag n = .quarantined limit := withTag_tag_same ..
    obtain ⟨first, tag⟩ := fails (s.withTag n fun _ => .free) .errorResponse rfl (by rw [freed]; rfl)
    obtain ⟨first', tag'⟩ := fails ((s.elapse left).withTag n fun _ => .quarantined limit) .timeout
      (blocks_elapse s left) (by rw [quarantined]; rfl)
    exact ⟨⟨_, exec_errorResponse live busy, first, tag.trans freed⟩, ⟨_, exec_timeout live busy, first', tag'.trans quarantined⟩⟩
  · have drops (t : State) (f : ReadFailure) (device : t.device = s.device) : t.deliverFailure q f = t := by
      rw [State.deliverFailure, orphan]
      exact endStop_of_not_stopping _ (running_not_stopping _ (device ▸ running))
    rw [exec_errorResponse live busy, exec_timeout live busy, drops (s.withTag n _) _ rfl, drops ((s.elapse left).withTag n _) _ (device_of_blocks (blocks_elapse s left))]
    exact ⟨rfl, rfl⟩

end Sys2Proof.Machine.Proofs
end

section
/-! Members that fail with chunks outstanding: a card read's ECC error and a failed COPY_IN request (R3, R91, R178, R179): O45. -/

namespace Sys2Proof.Machine.Proofs

open Laws

/-! ### Buffers handed back while nobody waits -/

section HandBack
variable {s t : State} {i : SNum} {x : Slot} {k : Nat} {p : PNum} {ws : List Work}

/-- R103: the buffers of the contexts `l` given back by partition `p`. -/
def handBack (p : PNum) : State → List ChunkCtx → State
  | s, [] => s
  | s, c :: l => handBack p (match c.buffer with | some b => s.withBufferBack b p | none => s) l

theorem handBack_putSlot (l : List ChunkCtx) : handBack p (putSlot s i x) l = putSlot (handBack p s l) i x := by
  induction l generalizing s with
  | nil => rfl
  | cons c l ih =>
    cases buffer : c.buffer with
    | none =>
      simp only [handBack, buffer]
      exact ih
    | some b =>
      simp only [handBack, buffer]
      exact ih (s := s.withBufferBack b p)

/-- R111: releases with nobody waiting leave the buffers free, one after the other. -/
theorem settles_releases (l : List ChunkCtx) (nobody : s.pool.waiting = []) (rest : Settles k (handBack p s l) ws t) :
    Settles (k + l.length) s (l.flatMap (bufferRelease p) ++ ws) t := by
  induction l generalizing s with
  | nil => exact rest
  | cons c l ih =>
    cases buffer : c.buffer with
    | none =>
      have more : Settles (k + l.length) s (l.flatMap (bufferRelease p) ++ ws) t := ih nobody (by simpa only [handBack, buffer] using rest)
      have same : (c :: l).flatMap (bufferRelease p) ++ ws = l.flatMap (bufferRelease p) ++ ws := by
        simp [bufferRelease, buffer]
      rw [same]
      exact more.mono (by simp only [List.length_cons]; omega)
    | some b =>
      have more := ih (s := s.withBufferBack b p) nobody (by simpa only [handBack, buffer] using rest)
      have same : (c :: l).flatMap (bufferRelease p) ++ ws = .release b p :: (l.flatMap (bufferRelease p) ++ ws) := by
        simp [bufferRelease, buffer]
      rw [same]
      exact settles_cons (release_free nobody) more

end HandBack

/-! ### A failure in a slot with chunks -/

section Failure
variable {s : State} {i : SNum} {x : Slot} {v : Verdict}

/-- R97: the answer's own slot. -/
theorem postGroup_own : ((putSlot s i x).postGroup i v).slot i
    = { x with
        st := .posting, verdict := some v, errorDue := v.status.errorClass.isSome
        posted := (s.part x.partition).discards } := by
  simp only [State.postGroup, putSlot_slot, putSlot_withSlot]
  split
  · exact look_upd_same ..
  · exact (slot_of_blocks (blocks_newRecord ..) i).trans (look_upd_same ..)

/-- R97, R98, R144: a group answered with an error class stays in its slot until its error path step. -/
theorem settles_postError (due : v.status.errorClass.isSome = true) :
    Settles 2 (putSlot s i x) [.post i v] ((putSlot s i x).postGroup i v) := by
  have errorDue : (((putSlot s i x).postGroup i v).slot i).errorDue = v.status.errorClass.isSome := by rw [postGroup_own]
  have waits : ((putSlot s i x).postGroup i v).doWork (.release98 i) = ((putSlot s i x).postGroup i v, []) :=
    if_neg fun h => by rw [errorDue, due] at h; cases h.2.2
  exact settles_cons (u := (putSlot s i x).postGroup i v) (more := [.release98 i]) rfl (settles_cons waits (settles_nil _))

/-- R91: the contexts of a member when it is cut. -/
def cutChunks (s : State) (i : SNum) (x : Slot) : List ChunkCtx := x.chunks.map fun c => c.cut (s.unissued i c.chunk)

/-- R91: the contexts that the cut frees at once, or keeps until their accesses end. -/
def cutFrees (s : State) (i : SNum) (x : Slot) (frees : Bool) : List ChunkCtx :=
  (cutChunks s i x).filter fun c => c.freedByCut (decide (x.op = some .copyIn)) == frees

/-- R91: the requests and the place in the line for data places that the slot gives up. -/
def cutLink (s : State) (i : SNum) : State :=
  (s.withdrawReads i).withLink fun l => { l with placeWaiters := l.placeWaiters.filter fun j => decide (j ≠ i) }

theorem cutMember_eq : (putSlot s i x).cutMember i
    = (putSlot (cutLink s i) i
        { x with chunks := cutFrees s i x false, st := if (cutFrees s i x false).isEmpty then x.st else .draining },
      (cutFrees s i x true).flatMap (bufferRelease x.partition) ++ if (cutFrees s i x false).isEmpty then [.endMember i] else []) := by
  have kept : cutFrees s i x false = (cutChunks s i x).filter fun c => !c.freedByCut (decide (x.op = some .copyIn)) :=
    congrArg (List.filter · _) (funext fun c => by simp)
  have freed : cutFrees s i x true = (cutChunks s i x).filter fun c => c.freedByCut (decide (x.op = some .copyIn)) :=
    congrArg (List.filter · _) (funext fun c => by simp)
  unfold State.cutMember
  dsimp only
  rw [putSlot_slot, kept, freed]
  exact congrArg (·, _) (putSlot_withSlot (s := cutLink s i) _)

/-- R91: after the first failure of a member the slot holds its verdict, and drains or posts. -/
theorem settles_failed {a : Status} {d : Nat} (live : x.live = true) (due : a.errorClass.isSome = true) (nobody : s.pool.waiting = []) :
    ∃ t, Settles (x.chunks.length + 4) (putSlot s i x) [.fail i a d] t
      ∧ (t.slot i).verdict = some { status := a, detail := d, failedMember := x.current }
      ∧ ((t.slot i).st = .draining ∨ (t.slot i).st = .posting) := by
  let y : Slot := { x with verdict := some { status := a, detail := d, failedMember := x.current } }
  let z : Slot := { y with chunks := cutFrees s i y false, st := if (cutFrees s i y false).isEmpty then x.st else .draining }
  let u := handBack x.partition (cutLink s i) (cutFrees s i y true)
  have few : (cutFrees s i y true).length ≤ x.chunks.length :=
    (List.length_filter_le ..).trans (List.length_map ..).le
  have cut : (putSlot s i x).doWork (.fail i a d) = _ := (failMember_cuts live a d).trans (cutMember_eq (x := y))
  have chain {k : Nat} {ws : List Work} {t : State}
      (tail : (if (cutFrees s i y false).isEmpty then [Work.endMember i] else []) = ws) (small : k ≤ 3) (rest : Settles k (putSlot u i z) ws t) :
      Settles (x.chunks.length + 4) (putSlot s i x) [.fail i a d] t := by
    rw [tail] at cut
    have released := settles_releases (s := putSlot (cutLink s i) i z) (p := x.partition) (cutFrees s i y true) nobody
      (by rw [handBack_putSlot]; exact rest)
    have all := settles_cons cut (by rw [List.append_nil]; exact released)
    exact all.mono (by omega)
  by_cases none : (cutFrees s i y false).isEmpty = true
  · refine ⟨_, chain (if_pos none) (by omega) (settles_cons (endMember_failed rfl) (settles_postError due)), ?_, .inr ?_⟩
    all_goals rw [postGroup_own]
  · refine ⟨_, chain (if_neg none) (by omega) (settles_nil _), ?_, .inl ?_⟩
    all_goals rw [putSlot_slot]
    exact if_neg none

end Failure

/-! ### The end of a card access at its slot -/

/-- The blocks that the Fence Unit does not touch. -/
def engine (s : State) : Device × Vector Window 64 × Vector Partition 16 × Scheduler × Vector Slot 32 × Pool :=
  (s.device, s.windows, s.parts, s.sched, s.slots, s.pool)

section Access
variable {s t : State}

theorem engine_of_blocks (same : blocks t = blocks s) : engine t = engine s := by
  simp only [engine, device_of_blocks same, windows_of_blocks same, parts_of_blocks same, sched_of_blocks same, slots_of_blocks same,
    pool_of_blocks same]

theorem engine_countDownFence (f : FNum) : engine (s.countDownFence f) = engine s := by
  unfold State.countDownFence
  dsimp only
  split
  · split
    · split_ifs
      · exact (engine_of_blocks (blocks_reportDeferred ..)).trans rfl
      all_goals rfl
    · rfl
  · rfl

/-- R21, R27: the end of an access changes the access records, the fences and what their FENCE_SET commands answer. -/
theorem engine_endAccess (id : Nat) : engine (s.endAccess id) = engine s := by
  have counted (l : List FNum) (u : State) : engine (u.countDownFences l) = engine u := by
    induction l generalizing u with
    | nil => rfl
    | cons f l ih => exact (ih _).trans (engine_countDownFence f)
  unfold State.endAccess State.endRecord
  split
  · rfl
  · exact counted ..

variable (same : engine t = engine s)
include same

theorem slots_of_engine : t.slots = s.slots := congrArg (fun e => e.2.2.2.2.1) same
theorem slot_of_engine (i : SNum) : t.slot i = s.slot i := congrArg (look · i) (slots_of_engine same)
theorem part_of_engine (p : PNum) : t.part p = s.part p := congrArg (look · p) (show t.parts = s.parts from congrArg (fun e => e.2.2.1) same)
theorem window_of_engine (w : WNum) : t.window w = s.window w := congrArg (look · w) (show t.windows = s.windows from congrArg (fun e => e.2.1) same)
theorem pool_of_engine : t.pool = s.pool := congrArg (fun e => e.2.2.2.2.2) same

theorem intact_of_engine {d : Device} (h : Intact d s) : Intact d t := by
  obtain ⟨device, slots, windows, parts⟩ := h
  refine ⟨(congrArg (fun e => e.1) same).trans device, fun i => ?_, fun w => ?_, fun p => ?_⟩
  · rw [slot_of_engine same]
    exact slots i
  · rw [window_of_engine same]
    exact windows w
  · rw [part_of_engine same]
    exact parts p

theorem sharedFree_of_engine : t.sharedFree = s.sharedFree := by
  have deficits : t.deficits = s.deficits := congrArg total (funext fun p => by rw [part_of_engine same])
  rw [State.sharedFree, State.sharedFree, deficits, pool_of_engine same]

end Access

theorem endAtSlot_good {s : State} {n : Nat} {o : CardOp} {i : SNum} {k : Nat} {act : State → SNum → Nat → Inner}
    (owner : o.owner = some (i, k)) (live : s.halted = false) (good : TablesGood s) :
    s.endAtSlot n o act = (act s i k).1.finish n (act s i k).2 := by
  obtain ⟨slots, windows, parts⟩ := good
  unfold State.endAtSlot
  rw [owner]
  dsimp only
  rw [live, parityError_allGood slots windows parts]
  rfl

theorem slots_reevaluate {s : State} {before : Nat} : (s.reevaluate before).slots = s.slots := by
  unfold State.reevaluate State.evalWatermark
  dsimp only
  split
  · rfl
  · split
    · exact (slots_of_blocks (blocks_handOver ..)).trans rfl
    · rfl

/-- Settles O45: the failure's inner event cuts the member, and the group is answered or its slot drains. -/
theorem membersFail : Obligations.MembersFail := by
  intro s i k c running good st noVerdict noAbort found takes nobody few failed
  have outsideHalted : s.device.st ≠ .halted := by simp [running]
  have notStopping : s.device.st ≠ .stopping := by simp [running]
  have ends (u : State) (f : ChunkCtx → ChunkCtx) (a : Status) (d before : Nat) (due : a.errorClass.isSome = true)
      (same : engine u = engine s) :
      let t := (u.withSlot i fun x => x.changeChunk k f).finish before [.fail i a d]
      (t.slot i).verdict = some { status := a, detail := d, failedMember := (s.slot i).current }
        ∧ ((t.slot i).st = .draining ∨ (t.slot i).st = .posting) ∧ t.device.st = .running := by
    let x := (s.slot i).changeChunk k f
    have start : (u.withSlot i fun x => x.changeChunk k f) = putSlot u i x := by
      rw [withSlot_eq_putSlot, slot_of_engine same]
    have live : x.live = true := live_iff.mpr ⟨st, noVerdict, noAbort⟩
    have intact : Intact s.device (putSlot u i x) := intact_putSlot (intact_of_engine same ⟨rfl, good⟩) (good.1 i)
    have length : x.chunks.length = (s.slot i).chunks.length := List.length_map ..
    obtain ⟨t, chain, verdict, after⟩ := settles_failed (s := u) (i := i) (x := x) (a := a) (d := d) live due
      ((congrArg Pool.waiting (pool_of_engine same)).trans nobody)
    have small : x.chunks.length + 4 ≤ Config.innerBound := by
      rw [length]
      exact le_trans (by omega : _ ≤ 8) (by decide)
    dsimp only
    rw [start, finish_chain intact outsideHalted chain small notStopping]
    have slot : (t.reevaluate before).slot i = t.slot i := congrArg (look · i) slots_reevaluate
    obtain ⟨device, -⟩ := (intact_reevaluate before).mpr (intact_chain intact outsideHalted chain small)
    rw [slot, device]
    exact ⟨verdict, after, running⟩
  have still {t : State} (st : t.device.st = .running) : t.endStop = t := endStop_of_not_stopping _ (running_not_stopping _ st)
  refine ⟨fun o stands isRead owner => ?_, fun n q got left limit busy requester => ?_⟩
  · have same := engine_endAccess (s := s) o.id
    have read : s.cardRead o.id = some o := by simp [State.cardRead, stands, isRead]
    have chunk : ((s.endAccess o.id).slot i).chunk k = some c := by rw [slot_of_engine same, found]
    obtain ⟨verdict, after, device⟩ := ends (s.endAccess o.id) (fun c => { c with phase := .held }) .cardEcc 0 s.sharedFree rfl same
    have run : exec (.cardReadEccError o.id) s
        = .next (((s.endAccess o.id).withSlot i fun x => x.changeChunk k fun c => { c with phase := .held }).finish s.sharedFree
            [.fail i .cardEcc 0]) := by
      have intact := intact_of_engine same (d := s.device) ⟨rfl, good⟩
      have acts : (s.endAccess o.id).takeEccError i k
          = ((s.endAccess o.id).withSlot i fun x => x.changeChunk k fun c => { c with phase := .held }, [.fail i .cardEcc 0]) := by
        simp only [State.takeEccError, chunk, takes]
        rfl
      show (match s.cardRead o.id with | none => _ | some o => _) = _
      rw [read]
      dsimp only
      rw [endAtSlot_good owner (decide_eq_false (by rw [intact.1]; exact outsideHalted)) intact.2, acts, still device]
    obtain ⟨mem, marks⟩ := sameMemory_law.exec rfl run
    exact ⟨_, run, ⟨verdict, after, mem, marks⟩⟩
  · have handed (u : State) (f : ReadFailure) (same : engine u = engine s) :
        u.deliverFailure q f = (u.withSlot i fun x => x.changeChunk k fun e => { e with requests := c.requests - 1 }).finish u.sharedFree
          [.fail i .hostRead f.code] := by
      have chunk : (u.slot i).chunk k = some c := by rw [slot_of_engine same, found]
      have goodU : TablesGood u := (intact_of_engine same (d := s.device) ⟨rfl, good⟩).2
      have acts : u.copyInFailure i k f.code
          = (u.withSlot i fun x => x.changeChunk k fun e => { e with requests := c.requests - 1 }, [.fail i .hostRead f.code]) := by
        simp only [State.copyInFailure, chunk, takes]
        rfl
      rw [State.deliverFailure, requester]
      dsimp only
      rw [atSlot_good goodU, acts]
    have result (e : Instr) (u : State) (f : ReadFailure) (same : engine u = engine s) (away : reachesCard e = false)
        (run : exec e s = .next (u.deliverFailure q f)) (idle : (u.tag n).isBusy = false) :
        ∃ t, exec e s = .next t ∧ failed t .hostRead f.code ∧ t.tag n = u.tag n := by
      obtain ⟨mem, marks⟩ := sameMemory_law.exec away run
      rw [handed u f same] at run mem marks
      obtain ⟨verdict, after, -⟩ := ends u (fun e => { e with requests := c.requests - 1 }) .hostRead f.code u.sharedFree rfl same
      exact ⟨_, run, ⟨verdict, after, mem, marks⟩, tag_finish (s := u.withSlot i _) idle⟩
    have freed : (s.withTag n fun _ => .free).tag n = .free := withTag_tag_same ..
    have quarantined : ((s.elapse left).withTag n fun _ => .quarantined limit).tag n = .quarantined limit := withTag_tag_same ..
    obtain ⟨t, run, facts, tag⟩ := result _ (s.withTag n fun _ => .free) .errorResponse rfl rfl (exec_errorResponse outsideHalted busy) (by rw [freed]; rfl)
    obtain ⟨t', run', facts', tag'⟩ := result _ ((s.elapse left).withTag n fun _ => .quarantined limit) .timeout
      (engine_of_blocks (s := s) (t := s.elapse left) (blocks_elapse s left)) rfl
      (exec_timeout outsideHalted busy) (by rw [quarantined]; rfl)
    exact ⟨⟨t, run, facts, tag.trans freed⟩, ⟨t', run', facts', tag'.trans quarantined⟩⟩


end Sys2Proof.Machine.Proofs
end

section
/-! An acknowledged card write (R2, R4): what it stores and marks, and which accesses are in progress after it: O46. -/

namespace Sys2Proof.Machine.Proofs

open Laws

/-! ### The accesses in progress after a step -/

/-- R2: the accesses in progress are those of before and accesses that have begun since. -/
structure OpsOnward (s t : State) : Prop where
  next : s.card.nextOp ≤ t.card.nextOp
  ops : ∀ o ∈ t.card.ops, o ∈ s.card.ops ∨ s.card.nextOp ≤ o.id

section Ops
variable {s t u : State}

theorem OpsOnward.of_card (h : t.card = s.card) : OpsOnward s t := ⟨by rw [h], fun o member => .inl (h ▸ member)⟩

theorem OpsOnward.refl (s : State) : OpsOnward s s := .of_card rfl

theorem OpsOnward.trans (h : OpsOnward s t) (k : OpsOnward t u) : OpsOnward s u := by
  refine ⟨h.next.trans k.next, fun o member => ?_⟩
  rcases k.ops o member with old | new
  · exact h.ops o old
  · exact .inr (h.next.trans new)

theorem OpsOnward.before (h : OpsOnward s t) (kept : u.card = t.card) : OpsOnward s u := h.trans (.of_card kept)

theorem OpsOnward.of_outer (h : outer t = outer s) : OpsOnward s t := .of_card (congrArg (fun x => x.2.1) h)

theorem opsOnward_presentAccess {i : SNum} {k base len : Nat} {w : Option (List Byte)} (h : s.presentAccess i k base len w = .ok t) :
    OpsOnward s t := by
  unfold State.presentAccess at h
  split at h
  · cases h
  · obtain rfl := Except.ok.inj h
    refine ⟨Nat.le_succ _, fun o member => ?_⟩
    rcases List.mem_append.mp member with old | new
    · exact .inl old
    · rw [List.mem_singleton.mp new]
      exact .inr le_rfl

variable (s)

theorem opsOnward_startChunk (i : SNum) (c : MemberCtx) (r : SubRecord) (op : Op) (b : Option BNum) :
    OpsOnward s (s.startChunk i c r op b).1 := by
  unfold State.startChunk
  cases op
  case mark => exact .refl s
  case copyIn => exact .of_card rfl
  all_goals
    dsimp only
    split
    · exact .refl s
    · split
      · exact .of_card rfl
      next issued => exact (opsOnward_presentAccess issued).before rfl

theorem opsOnward_startChunks (i : SNum) : OpsOnward s (s.startChunks i).1 := by
  unfold State.startChunks
  dsimp only
  split
  · split
    · split
      · split
        · split
          · refine OpsOnward.trans ?_ (opsOnward_startChunk ..)
            exact .of_card rfl
          · exact .refl s
        · split
          · exact .of_card rfl
          · exact .refl s
      · exact opsOnward_startChunk ..
    · exact .refl s
  · exact .refl s

theorem opsOnward_takeGrant (i : SNum) (b : BNum) : OpsOnward s (s.takeGrant i b).1 := by
  unfold State.takeGrant
  dsimp only
  split
  · split
    · refine OpsOnward.trans ?_ (opsOnward_startChunk ..)
      exact .of_card rfl
    · exact .refl s
  · exact .refl s

theorem opsOnward_writeChunk (i : SNum) (m : MemberCtx) (c : ChunkCtx) : OpsOnward s (s.writeChunk i m c).1 := by
  unfold State.writeChunk
  dsimp only
  split
  · exact .refl s
  · split
    · exact .refl s
    next issued => exact (opsOnward_presentAccess issued).before rfl

theorem opsOnward_takeTurn (i : SNum) : OpsOnward s (s.takeTurn i).1 := by
  unfold State.takeTurn
  dsimp only
  split
  next op c _ _ _ _ =>
    by_cases turn : ((s.slot i).live && decide (c.phase = .held)) = true
    · rw [if_pos turn]
      cases op
      case copyIn | move => exact opsOnward_writeChunk ..
      case digest => exact .of_outer (outer_enterCrc ..)
      case copyOut =>
        dsimp only
        split_ifs
        · exact .refl s
        · exact .of_outer (outer_handOverChunk ..)
        · exact .of_card rfl
      all_goals exact .refl s
    · rw [if_neg turn]
      exact .refl s
  next => exact .refl s

theorem takeRefs_card (l : List WNum) : (s.takeRefs l).card = s.card := by rw [takeRefs_eq]

theorem dropRefs_card (l : List WNum) : (s.dropRefs l).card = s.card := by
  induction l generalizing s with
  | nil => rfl
  | cons w l ih =>
    have answered (u : State) (o : DeferOp) (n : Nat) (a : AdminStatus) : (u.reportDeferred o n a).card = u.card :=
      card_of_blocks (blocks_reportDeferred u o n a)
    rw [State.dropRefs, ih]
    unfold State.dropRef
    dsimp only
    split_ifs
    · exact answered ..
    all_goals rfl

theorem opsOnward_startMember (i : SNum) : OpsOnward s (s.startMember i).1 := by
  unfold State.startMember
  dsimp only
  split
  · exact .refl s
  · split
    · split
      · exact .refl s
      · exact .of_card (takeRefs_card s _)
    · exact .refl s

theorem opsOnward_doWork (w : Work) : OpsOnward s (s.doWork w).1 := by
  cases w with
  | startMember i => exact opsOnward_startMember s i
  | startChunks i => exact opsOnward_startChunks s i
  | turn i => exact opsOnward_takeTurn s i
  | grant i b => exact opsOnward_takeGrant s i b
  | endMember i =>
    exact .of_card ((congrArg (fun x => x.2.1) (outer_endMember s i)).trans (dropRefs_card s _))
  | _ => exact .of_outer (by simp [State.doWork])

theorem opsOnward_settle (n : Nat) (ws : List Work) : OpsOnward s (State.settle n s ws) := by
  induction n generalizing s ws with
  | zero => exact .refl s
  | succ n ih =>
    cases ws with
    | nil => exact .refl s
    | cons w ws =>
      refine OpsOnward.trans (t := (s.workStep w).1) ?_ (ih _ _)
      unfold State.workStep
      split
      · exact .refl s
      · dsimp only
        split
        · exact .of_card rfl
        · exact opsOnward_doWork s w

theorem endStop_card : s.endStop.card = s.card := by
  unfold State.endStop
  split <;> rfl

theorem opsOnward_finish (before : Nat) (ws : List Work) : OpsOnward s (s.finish before ws) :=
  (opsOnward_settle s Config.innerBound ws).before
    ((endStop_card _).trans (congrArg (fun x => x.2.1) (outer_reevaluate _ before)))

theorem opsOnward_endAtSlot (n : Nat) (o : CardOp) (act : State → SNum → Nat → Inner) (kept : ∀ i k, (act s i k).1.card = s.card) :
    OpsOnward s (s.endAtSlot n o act) := by
  unfold State.endAtSlot
  split
  · exact .refl s
  · split_ifs
    · exact .refl s
    · split
      · exact .of_card rfl
      · exact (OpsOnward.of_card (kept ..)).trans (opsOnward_finish ..)

theorem endChunk_card (i : SNum) (k : Nat) (b : Bool) : (s.endChunk i k b).1.card = s.card :=
  congrArg (fun x => x.2.1) (outer_endChunk s i k b)

end Ops

/-! ### A write alone on its words -/

section Alone
variable {o : CardOp} {bad : Nat → Bool} {form : Prop}

/-- No other access in progress touches a word of `o`. -/
def AloneOn (o : CardOp) (c : Card) : Prop := ∀ o' ∈ c.ops, o'.id ≠ o.id → ∀ w, o.touches w = true → o'.touches w = false

/-- R4: whether word `w` is marked after write `o` has come to it. -/
def markedAfter (o : CardOp) (bad : Nat → Bool) (before : Prop) (w : Nat) : Prop :=
  coversWord o.base o.len w = false ∧ (before ∨ bad w = true)

theorem aloneOn_come {c : Card} (alone : AloneOn o c) (w : Nat) (b : Bool) : AloneOn o (c.come o w b) := by
  have changed (f : CardOp → CardOp) (id : ∀ x, (f x).id = x.id) (mem : List Host.Cell) (marks : List Nat) :
      AloneOn o (Card.change { c with mem, marks } o.id f) := by
    intro o' member other v touches
    obtain ⟨x, inOps, same⟩ := List.mem_map.mp member
    subst same
    by_cases mine : x.id = o.id
    · rw [if_pos mine, id, mine] at other
      exact absurd rfl other
    · rw [if_neg mine] at other ⊢
      exact alone x inOps other v touches
  unfold Card.come
  split
  · exact changed (fun x => { x with reached := w :: x.reached }) (fun _ => rfl) _ _
  · exact changed (fun o => { o with seen := (w, readBytes c.mem (8 * w) 8, c.marks.contains w) :: o.seen }) (fun _ => rfl) c.mem c.marks

/-- R2, R4: a write that comes to one word. -/
theorem mem_marks_come {c : Card} (writes : o.write.isSome = true) (w v : Nat) (b : Bool) :
    v ∈ (c.come o w b).marks ↔ if v = w then markedAfter o (fun _ => b) (v ∈ c.marks) v else v ∈ c.marks := by
  rw [Card.come, if_pos writes]
  change v ∈ (if _ then _ else if _ then _ else _) ↔ _
  by_cases same : v = w
  · subst same
    rw [if_pos rfl, markedAfter]
    cases covers : coversWord o.base o.len v
    · cases b <;> simp [mem_markSet]
    · simp [mem_markClear]
  · rw [if_neg same]
    split_ifs
    · simp [mem_markClear, same]
    · simp [mem_markSet, same]
    · rfl

theorem readByte_come {c : Card} {data : List Byte} (form : Memory.wf c.mem = true) (writes : o.write = some data) (w a : Nat) (b : Bool) :
    readByte (c.come o w b).mem a
      = if wordOf a = w ∧ o.base ≤ a ∧ a < o.base + data.length then (data[a - o.base]?).getD 0 else readByte c.mem a := by
  have some : o.write.isSome = true := by rw [writes]; rfl
  rw [Card.come, if_pos some]
  have stored := readByte_storeWord form o.base data w a
  rw [← stored]
  show readByte (storeWord c.mem o.base (o.write.getD []) w) a = _
  rw [writes]
  rfl

/-- R2: a write that nothing else is in the way of draws no free value. -/
theorem finish_alone {c : Card} {d : Nat} {data : List Byte} {l : List Nat} (form : Memory.wf c.mem = true) (writes : o.write = some data)
    (fresh : o.reached = []) (touched : ∀ w ∈ l, o.touches w = true) (alone : AloneOn o c) :
    let c' := (Card.finish o bad l (c, d)).1
    (∀ a, readByte c'.mem a = if wordOf a ∈ l ∧ o.base ≤ a ∧ a < o.base + data.length then (data[a - o.base]?).getD 0
        else readByte c.mem a)
      ∧ (∀ w, w ∈ c'.marks ↔ if w ∈ l then markedAfter o bad (w ∈ c.marks) w else w ∈ c.marks)
      ∧ c'.nextOp = c.nextOp := by
  induction l generalizing c with
  | nil => exact ⟨fun a => by simp [Card.finish], fun w => by simp [Card.finish], rfl⟩
  | cons w l ih =>
    have some : o.write.isSome = true := by rw [writes]; rfl
    have comes : o.mayCome w = true := by
      simp [CardOp.mayCome, CardOp.mayReach, writes, fresh, touched w (List.mem_cons_self ..)]
    have first : Card.othersFirst o.id o.write.isSome w (c, d) = (c, d) :=
      othersFirst_alone _ _ _ _ fun o' member other => alone o' member other w (touched w (List.mem_cons_self ..))
    have step : Card.finish o bad (w :: l) (c, d) = Card.finish o bad l (c.come o w (bad w), d) := by
      rw [Card.finish, if_pos comes, first]
    obtain ⟨bytes, marks, next⟩ := ih (c := c.come o w (bad w)) (wf_come form ..) (fun v hv => touched v (List.mem_cons_of_mem _ hv))
      (aloneOn_come alone w (bad w))
    dsimp only
    rw [step]
    refine ⟨fun a => ?_, fun v => ?_, next.trans ?_⟩
    · rw [bytes, readByte_come form writes, ite_either]
      simp only [List.mem_cons]
    · rw [marks, mem_marks_come some]
      by_cases later : v ∈ l
      · by_cases now : v = w
        · subst now
          simp only [later, markedAfter, if_pos, List.mem_cons_self]
          tauto
        · simp [later, now]
      · by_cases now : v = w
        · subst now
          simp [later, markedAfter]
        · simp [later, now]
    · rw [Card.come, if_pos some]
      rfl

end Alone

/-! ### The words of a range -/

theorem mem_wordsOf {base len w : Nat} : w ∈ wordsOf base len ↔ 0 < len ∧ base / 8 ≤ w ∧ w ≤ (base + len - 1) / 8 := by
  unfold wordsOf wordOf
  split
  next empty => simp [empty]
  next positive =>
    rw [List.mem_range'_1]
    omega

theorem head_wordsOf {base len : Nat} (positive : 0 < len) : (wordsOf base len).head? = some (base / 8) := by
  rw [wordsOf, if_neg (Nat.ne_of_gt positive)]
  rfl

theorem getLast_wordsOf {base len : Nat} (positive : 0 < len) : (wordsOf base len).getLast? = some ((base + len - 1) / 8) := by
  rw [wordsOf, if_neg (Nat.ne_of_gt positive), List.range'_concat, List.getLast?_concat]
  unfold wordOf
  refine congrArg some ?_
  omega

theorem touches_iff {o : CardOp} {w : Nat} : o.touches w = true ↔ w ∈ wordsOf o.base o.len := by
  simp [CardOp.touches]

/-- R4: the words in which the merge read of a write finds an error. -/
def mergeFailsAt (o : CardOp) (badFirst badLast : Bool) (w : Nat) : Bool :=
  (badFirst && decide ((wordsOf o.base o.len).head? = some w)) || (badLast && decide ((wordsOf o.base o.len).getLast? = some w))

/-- R4: a word is marked after a write that has come to all its words. -/
theorem marked_after_write {o : CardOp} {badFirst badLast : Bool} {before : Prop} {w : Nat} :
    (if w ∈ wordsOf o.base o.len then markedAfter o (mergeFailsAt o badFirst badLast) before w else before)
      ↔ (before ∧ ¬(o.base ≤ 8 * w ∧ 8 * w + 8 ≤ o.base + o.len))
        ∨ (0 < o.len ∧ ¬(o.base ≤ 8 * w ∧ 8 * w + 8 ≤ o.base + o.len)
          ∧ (badFirst = true ∧ w = o.base / 8 ∨ badLast = true ∧ w = (o.base + o.len - 1) / 8)) := by
  have covers : coversWord o.base o.len w = false ↔ ¬(o.base ≤ 8 * w ∧ 8 * w + 8 ≤ o.base + o.len) := by
    rw [← Bool.not_eq_true, coversWord, Bool.and_eq_true, decide_eq_true_iff, decide_eq_true_iff]
  by_cases inWords : w ∈ wordsOf o.base o.len
  · obtain ⟨positive, -, -⟩ := mem_wordsOf.mp inWords
    have fails : mergeFailsAt o badFirst badLast w = true
        ↔ badFirst = true ∧ w = o.base / 8 ∨ badLast = true ∧ w = (o.base + o.len - 1) / 8 := by
      simp only [mergeFailsAt, head_wordsOf positive, getLast_wordsOf positive, Bool.or_eq_true, Bool.and_eq_true, decide_eq_true_eq,
        Option.some.injEq, @eq_comm _ _ w]
    rw [if_pos inWords, markedAfter, covers, fails]
    tauto
  · rw [if_neg inWords]
    rw [mem_wordsOf] at inWords
    have notCovered : ¬(o.base ≤ 8 * w ∧ 8 * w + 8 ≤ o.base + o.len) := fun ⟨low, high⟩ => inWords (by omega)
    have notFailed : ¬(0 < o.len ∧ ¬(o.base ≤ 8 * w ∧ 8 * w + 8 ≤ o.base + o.len)
        ∧ (badFirst = true ∧ w = o.base / 8 ∨ badLast = true ∧ w = (o.base + o.len - 1) / 8)) := by
      rintro ⟨positive, -, ⟨-, same⟩ | ⟨-, same⟩⟩
      all_goals exact inWords (by omega)
    tauto

section EndAccess
variable (s : State)

theorem countDownFence_card (f : FNum) : (s.countDownFence f).card = s.card := by
  unfold State.countDownFence
  dsimp only
  split
  · split
    · split_ifs
      · exact (card_of_blocks (blocks_reportDeferred ..)).trans rfl
      all_goals rfl
    · rfl
  · rfl

theorem endAccess_card (id : Nat) : (s.endAccess id).card = s.card.drop id := by
  have counted (l : List FNum) (u : State) : (u.countDownFences l).card = u.card := by
    induction l generalizing u with
    | nil => rfl
    | cons f l ih => exact (ih _).trans (countDownFence_card u f)
  unfold State.endAccess State.endRecord
  split
  · rfl
  · exact counted ..

end EndAccess

/-- Settles O46: the write comes to its words in order, and what follows in the step leaves card memory. -/
theorem cardWriteStores : Obligations.CardWriteStores := by
  intro s o data form noScrub stands unique apart writes length fresh inSpace badFirst badLast covered failed
  let bad := mergeFailsAt o badFirst badLast
  let v := s.withCardDraws (Card.finish o bad (wordsOf o.base o.len) (s.card, s.draws))
  have reached : s.writeReached o badFirst badLast = v := by
    unfold State.writeReached
    dsimp only
    rw [scrubOn_none noScrub, stands]
    rfl
  have found : s.cardWrite o.id = some o := by simp [State.cardWrite, stands, writes]
  have fits : o.inSpace = true := decide_eq_true inSpace
  obtain ⟨bytes, marks, next⟩ := finish_alone (o := o) (bad := bad) (c := s.card) (d := s.draws) (l := wordsOf o.base o.len) form writes
    fresh (fun w hw => touches_iff.mpr hw) apart
  have run : exec (.cardWriteAcknowledge o.id badFirst badLast) s
      = .next (((v.endAccess o.id).endAtSlot s.sharedFree o fun s i k => s.endChunk i k true).endStop) := by
    show (match s.cardWrite o.id with | none => _ | some o => _) = _
    rw [found]
    dsimp only
    rw [fits, reached]
    rfl
  obtain ⟨mem, marksKept⟩ := sameMemory_law.cardEnd (s := v) (t := v) (n := s.sharedFree) (id := o.id) (o := o)
    (act := fun s i k => s.endChunk i k true) (sameMemory_law.refl v) fun u i k => ledger_endChunk ..
  have ops : OpsOnward (v.endAccess o.id) (((v.endAccess o.id).endAtSlot s.sharedFree o fun s i k => s.endChunk i k true).endStop) :=
    (opsOnward_endAtSlot _ _ _ _ fun i k => endChunk_card ..).before (endStop_card _)
  refine ⟨_, run, fun a => ?_, fun w => ?_, fun o' member => ?_⟩
  · refine (congrArg (readByte · a) mem).trans ((bytes a).trans ?_)
    rw [length]
    by_cases inside : o.base ≤ a ∧ a < o.base + o.len
    · have inWords : wordOf a ∈ wordsOf o.base o.len := by
        rw [mem_wordsOf, wordOf]
        omega
      rw [if_pos inside, if_pos ⟨inWords, inside⟩]
    · rw [if_neg inside, if_neg fun h => inside h.2]
  · rw [marksKept]
    exact (marks w).trans marked_after_write
  · have after : (v.endAccess o.id).card = v.card.drop o.id := endAccess_card v o.id
    rcases ops.ops o' member with old | new
    · rw [after] at old
      exact .inl (by simpa using (List.mem_filter.mp old).2)
    · rw [after] at new
      exact .inr (next ▸ new)

end Sys2Proof.Machine.Proofs
end

section
/-! Slots that end: the occupied slots of a partition, the release of a POSTING slot, and writes that stay in the store (R42, R98, R181). -/

namespace Sys2Proof.Machine.Proofs

open Laws

/-! ### The occupied slots of a partition -/

section SlotsOf
variable {s : State} {i : SNum} {p : PNum}

theorem mem_slotsOf : i ∈ s.slotsOf p ↔ (s.slot i).st ≠ .free ∧ (s.slot i).partition = p := by
  simp [State.slotsOf, Slot.occupied]

theorem nodup_slotsOf : (s.slotsOf p).Nodup := by
  unfold State.slotsOf which
  exact (List.nodup_finRange 32).filter _

theorem slotsOf_eq_singleton (occupied : (s.slot i).st ≠ .free) (mine : (s.slot i).partition = p)
    (alone : ∀ j ≠ i, (s.slot j).st ≠ .free → (s.slot j).partition ≠ p) : s.slotsOf p = [i] := by
  refine List.perm_singleton.mp ((List.perm_ext_iff_of_nodup nodup_slotsOf (List.nodup_singleton i)).mpr fun j => ?_)
  rw [mem_slotsOf, List.mem_singleton]
  constructor
  · rintro ⟨st, partition⟩
    by_contra other
    exact alone j other st partition
  · rintro rfl
    exact ⟨occupied, mine⟩

theorem slotsOf_eq_nil (none : ∀ j, (s.slot j).st ≠ .free → (s.slot j).partition ≠ p) : s.slotsOf p = [] :=
  List.eq_nil_iff_forall_not_mem.mpr fun j member => by
    obtain ⟨st, partition⟩ := mem_slotsOf.mp member
    exact none j st partition

end SlotsOf

/-! ### The release of a slot -/

section Release
variable {s : State} {i : SNum} {p : PNum}

/-- R42: the state with slot `i` of partition `p` returned to FREE. -/
def slotFreed (s : State) (i : SNum) (p : PNum) : State :=
  (s.withSlot i fun _ => Slot.free).withPart p fun y => { y with slotsHeld := y.slotsHeld - 1 }

theorem slotFreed_part : (slotFreed s i p).part p = { s.part p with slotsHeld := (s.part p).slotsHeld - 1 } := withPart_part_same ..

theorem slotFreed_slot : (slotFreed s i p).slot i = Slot.free := withSlot_slot_same ..

theorem slotFreed_slot_ne {j : SNum} (other : j ≠ i) : (slotFreed s i p).slot j = s.slot j := withSlot_slot_ne _ _ _ _ other

/-- R42, R65: a slot of a partition that neither quiesces nor closes. -/
theorem freeSlot_stays (mine : (s.slot i).partition = p) (stays : (s.part p).st ≠ .quiescing ∧ (s.part p).st ≠ .closing) :
    s.freeSlot i = (slotFreed s i p, [.barrier p]) := by
  subst mine
  have st : ((slotFreed s i (s.slot i).partition).part (s.slot i).partition).st = (s.part (s.slot i).partition).st := by
    rw [slotFreed_part]
  obtain ⟨notQuiescing, notClosing⟩ := stays
  unfold State.freeSlot
  dsimp only
  rw [if_neg fun h => notQuiescing (st.symm.trans h.2), if_neg fun h => notClosing (st.symm.trans h.2)]
  rfl

/-- R98: a POSTING slot is freed when its completion is out or discarded, and no group of its partition waits in WAIT_ORDER. -/
theorem settles_release98 (posting : (s.slot i).st = .posting) (noError : (s.slot i).errorDue = false)
    (mine : (s.slot i).partition = p) (quiet : (s.slot i).posted = true → ((s.part p).st ≠ .quiescing ∧ (s.part p).st ≠ .closing)
      ∧ ∀ j ≠ i, (s.slot j).partition = p → (s.slot j).st ≠ .waitOrder) :
    Settles 2 s [.release98 i] (if (s.slot i).posted = true then slotFreed s i p else s) := by
  by_cases posted : (s.slot i).posted = true
  · obtain ⟨stays, noneWaits⟩ := quiet posted
    have frees : s.doWork (.release98 i) = (slotFreed s i p, [.barrier p]) :=
      (if_pos ⟨posting, posted, noError⟩).trans (freeSlot_stays mine stays)
    have idle : (slotFreed s i p).doWork (.barrier p) = (slotFreed s i p, []) := by
      refine barrier_idle fun j partition => ?_
      by_cases same : j = i
      · rw [same, slotFreed_slot]
        decide
      · rw [slotFreed_slot_ne same] at partition ⊢
        exact noneWaits j same partition
    rw [if_pos posted]
    exact settles_cons frees (settles_cons idle (settles_nil _))
  · have waits : s.doWork (.release98 i) = (s, []) := if_neg fun h => posted h.2.1
    rw [if_neg posted]
    have chain := settles_cons waits (settles_nil _)
    exact chain.mono (by omega)

end Release

/-! ### Writes that stay in the store -/

/-- R181: what is in the write store stays there, ahead of what joins it. -/
def Appends (s t : State) : Prop := s.link.store <+: t.link.store

section Appends
variable {s t u : State}

theorem Appends.trans (h : Appends s t) (k : Appends t u) : Appends s u := List.IsPrefix.trans h k

theorem Appends.nonempty (h : Appends s t) (some : s.link.store ≠ []) : t.link.store ≠ [] := fun none =>
  some (List.prefix_nil.mp (none ▸ h))

theorem appends_react (n : VNum) (r : Reaction) : Appends s (s.react n r) := by
  unfold State.react
  dsimp only
  split
  · exact List.prefix_append ..
  · exact List.prefix_rfl

theorem appends_handOver (e : Event) : Appends s (s.handOver e) := by
  have written (u : State) (w : PostedWrite) : Appends u (u.postWrite w) := List.prefix_append ..
  unfold State.handOver State.writeEvent
  split
  · exact (written _ _).trans (appends_react (s := (s.postWrite _).withEvents EventRing.advance) ..)
  · exact List.prefix_rfl

theorem appends_reevaluate (n : Nat) : Appends s (s.reevaluate n) := by
  unfold State.reevaluate State.evalWatermark
  dsimp only
  split
  · exact List.prefix_rfl
  · split
    · exact appends_handOver (s := s.withPool _) _
    · exact List.prefix_rfl

variable {d : Device} {k before : Nat} {ws : List Work}

/-- R191: a step in RUNNING, or in STOPPING that leaves a write in the store, ends where its inner events end. -/
theorem finish_chain_writes (intact : Intact d u) (outsideHalted : d.st ≠ .halted) (chain : Settles k u ws t)
    (small : k ≤ Config.innerBound) (writes : d.st ≠ .stopping ∨ t.link.store ≠ []) : u.finish before ws = t.reevaluate before := by
  rcases writes with notStopping | some
  · exact finish_chain intact outsideHalted chain small notStopping
  · rw [State.finish, settle_chain intact outsideHalted chain small]
    exact endStop_of_store _ ((appends_reevaluate before).nonempty some)

end Appends

end Sys2Proof.Machine.Proofs
end

section
/-! The error path step (R144, R145, R46): O50. -/

namespace Sys2Proof.Machine.Proofs

open Laws

section HaltFault
variable {s t : State} {i : SNum} {p : PNum} {k : Nat} {ws : List Work} {c : FaultCause}

/-- R46, R94: a partition entry changed by its fault, with the abort of its one occupied slot `i` requested. -/
def abortRequested (s : State) (p : PNum) (i : SNum) (f : Partition → Partition) : State :=
  (({ s with draws := s.draws + 1 }.withPart p f).withSlot i fun x => { x with abort := some (x.abort.getD .partitionFault) }).withPool
    fun q => { q with waiting := q.waiting.filter fun x => decide (x.1 ≠ i) }

theorem abortRequested_withPart (f g : Partition → Partition) :
    (abortRequested s p i f).withPart p g = abortRequested s p i fun y => g (f y) :=
  congrArg (fun u : State => { abortRequested s p i f with parts := u.parts }) (withPart_withPart (s := s) f g)

/-- R46: the fault of a partition whose one occupied slot `i` is POSTING: the slot records its abort, and the event follows. -/
def postingFaulted (s : State) (p : PNum) (i : SNum) (c : FaultCause) : State :=
  (abortRequested s p i fun y => { y with st := .faulted, faultCause := some c, pendingTag := none }).handOver (.partitionFault p c)

theorem postingFaulted_part : (postingFaulted s p i c).part p
    = { s.part p with st := .faulted, faultCause := some c, pendingTag := none } :=
  (part_of_blocks (blocks_handOver ..) p).trans (withPart_part_same ..)

theorem postingFaulted_slot : (postingFaulted s p i c).slot i
    = { s.slot i with abort := some ((s.slot i).abort.getD .partitionFault) } :=
  (slot_of_blocks (blocks_handOver ..) i).trans (withSlot_slot_same ..)

theorem postingFaulted_slot_ne {j : SNum} (other : j ≠ i) : (postingFaulted s p i c).slot j = s.slot j :=
  (slot_of_blocks (blocks_handOver ..) j).trans (withSlot_slot_ne _ _ _ _ other)

/-- R46, R94: the fault's inner events. -/
theorem settles_postingFault (taking : Taking (s.part p).st) (posting : (s.slot i).st = .posting) (slots : s.slotsOf p = [i])
    (noQuiesce : s.deferredAt .partitionQuiesce p.val = none) (rest : Settles k (postingFaulted s p i c) ws t) :
    Settles (k + 3) s (.fault p c :: ws) t := by
  let v := abortRequested s p i fun y => { y with st := .faulted, faultCause := some c }
  have acts : s.doWork (.fault p c) = (v, [.abort i, .reportFault p c]) := by
    refine (takeFault_takes taking).trans ?_
    rw [slots]
    rfl
  have slot : v.slot i = { s.slot i with abort := some ((s.slot i).abort.getD .partitionFault) } := withSlot_slot_same ..
  have stays : v.doWork (.abort i) = (v, []) := by
    have st : (v.slot i).st = .posting := by rw [slot]; exact posting
    simp only [State.doWork, State.takeAbort, st]
  have absent : (v.handOver (.partitionFault p c)).deferredAt .partitionQuiesce p.val = none :=
    (deferredAt_of_berth (berth_handOver ..)).trans noQuiesce
  have reported : v.doWork (.reportFault p c) = (postingFaulted s p i c, []) := by
    refine (congrArg (fun t : State => (t.withPart p fun y => { y with pendingTag := .none }, ([] : List Work)))
      (reportDeferred_absent _ _ _ _ absent)).trans (congrArg (·, []) ?_)
    rw [← handOver_withPart, abortRequested_withPart]
    rfl
  exact settles_cons acts (settles_cons stays (settles_cons reported rest))

theorem appends_postingFaulted : Appends s (postingFaulted s p i c) :=
  appends_handOver (s := abortRequested ..) _

theorem purse_postingFaulted (taking : Taking (s.part p).st) : purse (postingFaulted s p i c) = purse s := by
  refine (purse_handOver ..).trans (purse_withPart (s := { s with draws := s.draws + 1 }) p _ ?_)
  simp only [deficit_eq]
  rcases taking with h | h | h <;> rw [show ({ s with draws := s.draws + 1 } : State).part p = s.part p from rfl, h] <;> rfl

end HaltFault

section Released
variable {s u : State} {i : SNum} {p : PNum}

/-- R98: slot `i` freed, if its completion has been issued or discarded. -/
def releasedIf (posted : Bool) (u : State) (i : SNum) (p : PNum) : State := if posted = true then slotFreed u i p else u

theorem appends_releasedIf {posted : Bool} (h : Appends s u) : Appends s (releasedIf posted u i p) := by
  cases posted <;> exact h

theorem purse_releasedIf {posted : Bool} (h : purse u = purse s) : purse (releasedIf posted u i p) = purse s := by
  cases posted
  · exact h
  · exact (purse_withPart (s := u.withSlot i _) p _ rfl).trans h

end Released

/-- Settles O50: the step in each of the three dispositions, and the release of the slot that follows it. -/
theorem errorPathTaken : Obligations.ErrorPathTaken := by
  intro s i v c active good posting due verdict class' p tag done told faulted released run quiet
  have live : s.device.st ≠ .halted := by rcases active with h | ⟨h, -⟩ <;> rw [h] <;> decide
  have due' : s.errorPathDue i = some (v, c, tag) := by
    simp only [State.errorPathDue, verdict, posting, due, class']
    rfl
  have doneSlot : done.slot i = { s.slot i with errorDue := false } := withSlot_slot_same ..
  have doneSlotNe (j : SNum) (other : j ≠ i) : done.slot j = s.slot j := withSlot_slot_ne _ _ _ _ other
  have toldSlots (j : SNum) : told.slot j = done.slot j := slot_of_blocks (blocks_handOver ..) j
  have toldPart (q : PNum) : told.part q = s.part q := part_of_blocks (blocks_handOver ..) q
  have intact : Intact s.device done := ⟨rfl, fun j => by
    by_cases same : j = i
    · rw [same, doneSlot]
      exact good.1 i
    · rw [doneSlotNe j same]
      exact good.1 j, good.2⟩
  have intactTold : Intact s.device told := (intact_handOver _).mpr intact
  have ends {u t : State} {k : Nat} {ws : List Work} (acts : s.errorPath i v c tag = (u, ws)) (intact : Intact s.device u)
      (chain : Settles k u ws t) (small : k ≤ Config.innerBound) (grows : Appends s t) (share : purse t = purse s) : run = .next t := by
    have runs : run = .next ((s.errorPath i v c tag).1.finish s.sharedFree (s.errorPath i v c tag).2) := by
      have takes : s.active = true := by rcases active with h | ⟨h, -⟩ <;> simp [State.active, State.running, State.stopping, h]
      refine congrArg Host.Outcome.next ?_
      rw [takes, due']
      dsimp only
      rw [parityError_allGood good.1 good.2.1 good.2.2]
    rw [runs, acts, finish_chain_writes intact live chain small (active.imp (fun h => by simp [h]) fun h => grows.nonempty h.2),
      reevaluate_same _ _ (sharedFree_of_purse share)]
  have report (chosen : (s.part p).dispositions.of c = .report) : s.errorPath i v c tag = (done, [.release98 i]) := by
    unfold State.errorPath
    dsimp only
    rw [show ((s.withSlot i _).part (s.slot i).partition).dispositions.of c = .report from chosen]
  have event (chosen : (s.part p).dispositions.of c = .reportEvent) : s.errorPath i v c tag = (told, [.release98 i]) := by
    unfold State.errorPath
    dsimp only
    rw [show ((s.withSlot i _).part (s.slot i).partition).dispositions.of c = .reportEvent from chosen]
  have halt (chosen : (s.part p).dispositions.of c = .halt) :
      s.errorPath i v c tag = (told, [.fault p .haltDisposition, .release98 i]) := by
    unfold State.errorPath
    dsimp only
    rw [show ((s.withSlot i _).part (s.slot i).partition).dispositions.of c = .halt from chosen]
  have releases {u : State} (slot : (u.slot i).st = .posting ∧ (u.slot i).errorDue = false ∧ (u.slot i).partition = p
        ∧ (u.slot i).posted = (s.slot i).posted)
      (idle : (s.slot i).posted = true → ((u.part p).st ≠ .quiescing ∧ (u.part p).st ≠ .closing)
        ∧ ∀ j ≠ i, (u.slot j).partition = p → (u.slot j).st ≠ .waitOrder) :
      Settles 2 u [.release98 i] (releasedIf (s.slot i).posted u i p) := by
    obtain ⟨st, noError, mine, posted⟩ := slot
    have chain := settles_release98 st noError mine fun h => idle (posted ▸ h)
    rwa [posted] at chain
  have told' : Appends s told := appends_handOver (s := done) _
  refine ⟨fun chosen idle => ?_, fun chosen idle => ?_, fun chosen opened others noQuiesce => ?_⟩
  · refine ends (report chosen) intact (releases ?_ fun posted => ?_) (by decide) (appends_releasedIf List.prefix_rfl) (purse_releasedIf rfl)
    · rw [doneSlot]
      exact ⟨posting, rfl, rfl, rfl⟩
    · obtain ⟨opened, none⟩ := idle posted
      refine ⟨by rw [show done.part p = s.part p from rfl, opened]; decide, fun j other mine => ?_⟩
      rw [doneSlotNe j other] at mine ⊢
      exact none j mine
  · refine ends (event chosen) intactTold (releases ?_ fun posted => ?_) (by decide) (appends_releasedIf told') (purse_releasedIf (purse_handOver ..))
    · rw [toldSlots, doneSlot]
      exact ⟨posting, rfl, rfl, rfl⟩
    · obtain ⟨opened, none⟩ := idle posted
      refine ⟨by rw [toldPart, opened]; decide, fun j other mine => ?_⟩
      rw [toldSlots, doneSlotNe j other] at mine ⊢
      exact none j mine
  · have taking : Taking (told.part p).st := .inl (by rw [toldPart, opened])
    have slot : told.slot i = { s.slot i with errorDue := false } := (toldSlots i).trans doneSlot
    have alone : told.slotsOf p = [i] := by
      refine slotsOf_eq_singleton (by rw [slot, posting]; decide) (by rw [slot]) fun j other occupied => ?_
      rw [toldSlots, doneSlotNe j other] at occupied ⊢
      exact others j other occupied
    have absent : told.deferredAt .partitionQuiesce p.val = none := (deferredAt_of_berth (berth_handOver ..)).trans noQuiesce
    have after : Settles 2 (postingFaulted told p i .haltDisposition) [.release98 i]
        (releasedIf (s.slot i).posted (postingFaulted told p i .haltDisposition) i p) := by
      refine releases (u := postingFaulted told p i .haltDisposition) ?_ fun _ => ?_
      · rw [postingFaulted_slot, slot]
        exact ⟨posting, rfl, rfl, rfl⟩
      · refine ⟨by rw [postingFaulted_part]; exact ⟨by simp, by simp⟩, fun j other mine waits => ?_⟩
        rw [postingFaulted_slot_ne other, toldSlots, doneSlotNe j other] at mine waits
        exact others j other (by rw [waits]; decide) mine
    exact ends (halt chosen) intactTold (settles_postingFault taking (by rw [slot, posting]) alone absent after) (by decide)
      (appends_releasedIf (told'.trans appends_postingFaulted)) (purse_releasedIf ((purse_postingFaulted taking).trans (purse_handOver ..)))

end Sys2Proof.Machine.Proofs
end

section
/-! The end of a chunk in its turn, and how its member goes on: the next chunk starts, none is left to start, or the member ends and
its group is answered or its next member starts (R81, R82, R88 to R91, R96). -/

namespace Sys2Proof.Machine.Proofs

open Laws

/-! ### A chunk that ends in order -/

section Done
variable {x : Slot} {m : MemberCtx} {r : SubRecord} {c : ChunkCtx} {k : Nat}

/-- R88, R89: the slot of a member that runs, with chunk `k` ended after exactly the chunks below it. -/
def doneSlot (x : Slot) (m : MemberCtx) (r : SubRecord) (k : Nat) : Slot :=
  { x with
    ctx := some { m with doneChunks := k + 1, doneAhead := [] }
    bytesDone := x.bytesDone + min 2048 (r.length.toNat - 2048 * k)
    chunks := x.chunks.filter fun d => decide (d.chunk ≠ k) }

theorem endedChunk_inOrder (ctx : x.ctx = some m) (member : x.member = some r) (done : m.doneChunks = k) (ahead : m.doneAhead = []) :
    endedChunk x k true = doneSlot x m r k := by
  rw [endedChunk, if_pos rfl, countDone_inOrder ctx member done ahead]
  rfl

variable (others : ∀ d ∈ x.chunks, d.chunk ≠ k → d.phase ≠ .held)
include others

theorem doneSlot_notHeld : ∀ d ∈ (doneSlot x m r k).chunks, d.phase ≠ .held := fun d member => by
  obtain ⟨inside, other⟩ := List.mem_filter.mp member
  exact others d inside (of_decide_eq_true other)

theorem doneSlot_quiet : (doneSlot x m r k).startMeetsTurn = false := by
  unfold Slot.startMeetsTurn
  split
  next c d _ inTurn =>
    have notHeld := doneSlot_notHeld (m := m) (r := r) others d (List.mem_of_find?_eq_some inTurn)
    simp [notHeld]
  next => rfl

end Done

/-! ### How a member goes on -/

section GoesOn
variable {s t : State} {i : SNum} {x y : Slot} {m : MemberCtx} {r : SubRecord} {op : Op} {n : Nat} {v : Verdict}

theorem notHeld_idle (notHeld : ∀ d ∈ x.chunks, d.phase ≠ .held) : (putSlot s i x).takeTurn i = (putSlot s i x, []) :=
  takeTurn_idle fun d inTurn => notHeld d (List.mem_of_find?_eq_some inTurn)

theorem takeTurn_noContext (none : (s.slot i).ctx = none) : s.takeTurn i = (s, []) := by
  have idle := takeTurn_ended (s := s) (i := i) none
  rwa [putSlot_self] at idle

theorem postGroup_ctx : (((putSlot s i x).postGroup i v).slot i).ctx = x.ctx := by rw [postGroup_own]

variable (ctx : x.ctx = some m) (live : x.live = true)
include ctx live

/-- R88, item 5: the slot starts the chunks that it may start, and no chunk has its turn. -/
theorem settles_goesOn (more : x.chunks ≠ [] ∨ m.next < m.count) (chain : Settles n (putSlot s i x) [.startChunks i] (putSlot t i y))
    (notHeld : ∀ d ∈ y.chunks, d.phase ≠ .held) : Settles (n + 2) (putSlot s i x) [.afterEnd i, .turn i] (putSlot t i y) :=
  settles_cons (w := .afterEnd i) (afterEnd_starts ctx live more)
    (chain.append (settles_cons (w := .turn i) (notHeld_idle notHeld) (settles_nil _)))

/-- R81: no chunk may start. -/
theorem settles_noneStarts (member : x.member = some r) (named : opOf r = some op) (some : x.chunks ≠ []) (none : x.mayStart m = false)
    (notHeld : ∀ d ∈ x.chunks, d.phase ≠ .held) : Settles 3 (putSlot s i x) [.afterEnd i, .turn i] (putSlot s i x) :=
  settles_goesOn ctx live (.inl some)
    (settles_cons (w := .startChunks i) (startChunks_ends ctx member named none) (settles_nil _)) notHeld

variable (noChunks : x.chunks = []) (all : m.count ≤ m.next)
include noChunks all

/-- R88, item 4: with no chunk left the member ends; what follows ends in the group's answer. -/
theorem settles_memberEnds (none : y.ctx = none) (chain : Settles n (putSlot s i x) [.endMember i] ((putSlot t i y).postGroup i v)) :
    Settles (n + 2) (putSlot s i x) [.afterEnd i, .turn i] ((putSlot t i y).postGroup i v) :=
  settles_cons (w := .afterEnd i) (afterEnd_ends ctx live noChunks all)
    (chain.append (settles_cons (w := .turn i) (takeTurn_noContext (postGroup_ctx.trans none)) (settles_nil _)))

variable (notBroken : (s.part x.partition).faultCause ≠ some .cqIndex)
include notBroken

/-- R96: the last member of its group. -/
theorem settles_lastEnds (last : x.members.length ≤ x.current + 1) : Settles 5 (putSlot s i x) [.afterEnd i, .turn i]
    ((putSlot (s.dropRefs m.refs) i (endedSlot x m)).postGroup i { status := .ok, detail := 0, failedMember := 0 }) := by
  obtain ⟨-, noVerdict, noAbort⟩ := live_iff.mp live
  exact settles_memberEnds ctx live noChunks all rfl (settles_endLast ctx noVerdict noAbort last notBroken)

end GoesOn

/-! ### The next member -/

section NextMember
variable {s : State} {p : PNum} {r : SubRecord}

/-- R15: the checks of a start do not look at the references of windows. -/
theorem startCheck_refs (g : WNum → Window → Nat) :
    ({ s with windows := mapTab (fun w y => { y with refs := g w y }) s.windows } : State).startCheck p r = s.startCheck p r := by
  have operand (len : Nat) (o : CardOperand) :
      ({ s with windows := mapTab (fun w y => { y with refs := g w y }) s.windows } : State).checkOperand p len o = s.checkOperand p len o := by
    unfold State.checkOperand
    cases asNum 64 o.window with
    | none => rfl
    | some w =>
      have window : ({ s with windows := mapTab (fun w y => { y with refs := g w y }) s.windows } : State).window w
          = { s.window w with refs := g w (s.window w) } := look_mapTab ..
      dsimp only
      rw [window]
  unfold State.startCheck
  simp only [operand]

/-- R14: a MARK has no operand. -/
theorem startCheck_mark {t : Translated} (passes : s.startCheck p r = .ok t) (mark : t.op = .mark) :
    t = { op := .mark, primary := none, secondary := none, refs := [] } := by
  have format : formatCheck r = .ok .mark := mark ▸ (startCheck_ok passes).1
  simp only [State.startCheck, format, primaryOperand, Except.ok.injEq] at passes
  exact passes.symm

variable {i : SNum} {x : Slot} {m : MemberCtx} {v : Verdict} {r' : SubRecord}

/-- R77, R90, R91: the next member, which answers its group in the step of its start. -/
theorem settles_nextAnswers (ctx : x.ctx = some m) (live : x.live = true) (noChunks : x.chunks = []) (all : m.count ≤ m.next)
    (notBroken : (s.part x.partition).faultCause ≠ some .cqIndex) (noReads : NoRequests s i)
    (kept : ∀ w ∈ m.refs, (s.window w).st ≠ .retiring ∨ m.refs.count w < (s.window w).refs)
    (next : x.members[x.current + 1]? = some r')
    (answers : (s.startCheck x.partition r' = .error (v.status, v.detail) ∧ v.failedMember = x.current + 1)
      ∨ ((∃ t, s.startCheck x.partition r' = .ok t ∧ t.op = .mark)
        ∧ x.members.length = x.current + 2 ∧ v = { status := .ok, detail := 0, failedMember := 0 })) :
    Settles 8 (putSlot s i x) [.afterEnd i, .turn i]
      ((putSlot (s.dropRefs m.refs) i { endedSlot x m with current := x.current + 1 }).postGroup i v) := by
  obtain ⟨st, noVerdict, noAbort⟩ := live_iff.mp live
  have more : x.current + 1 < x.members.length := (List.getElem?_eq_some_iff.mp next).choose
  let y : Slot := { endedSlot x m with current := x.current + 1 }
  have running : y.live = true := live_iff.mpr ⟨st, noVerdict, noAbort⟩
  have broken : ((s.dropRefs m.refs).part x.partition).faultCause ≠ some .cqIndex := by rwa [dropRefs_part]
  have check : (s.dropRefs m.refs).startCheck x.partition r' = s.startCheck x.partition r' := by
    rw [dropRefs_kept _ _ kept]
    exact startCheck_refs _
  refine settles_memberEnds (y := y) ctx live noChunks all rfl (settles_cons (endMember_goesOn ctx noVerdict noAbort more) ?_)
  rcases answers with ⟨fails, failed⟩ | ⟨⟨t, passes, mark⟩, last, rfl⟩
  · have starts := startMember_fails (s := s.dropRefs m.refs) (i := i) (x := y) next running (check.trans fails)
    have noReads' : NoRequests (s.dropRefs m.refs) i := by
      rw [dropRefs_kept _ _ kept]
      exact noReads
    have fails := settles_fail (s := s.dropRefs m.refs) (i := i) (x := y) (a := v.status) (d := v.detail) running noReads'
      (by rw [show y.chunks = [] from noChunks]; simp) broken
    rw [show ({ y with chunks := [], ctx := none } : Slot) = y from withoutChunks_eq noChunks rfl,
      show y.current = v.failedMember from failed.symm] at fails
    exact settles_cons starts fails
  · have noOperands : t = { op := .mark, primary := none, secondary := none, refs := [] } := startCheck_mark passes mark
    subst noOperands
    exact (settles_mark (x := y) next running (check.trans passes) rfl (by rw [show y.members.length = x.members.length from rfl]; exact last.le) broken).mono (by decide)

end NextMember

/-! ### The chunk in turn ends -/

section TurnEnds
variable {s t : State} {i : SNum} {x : Slot} {m : MemberCtx} {r : SubRecord} {c : ChunkCtx} {b : BNum} {k n : Nat}

/-- R84, R103: the data of a COPY_OUT chunk handed over to the write store, and its buffer given back. -/
def handedOver (s : State) (r : SubRecord) (k : Nat) (b : BNum) (data : List Byte) (p : PNum) : State :=
  (s.postWrite { kind := .data, addr := r.hostAddr + BitVec.ofNat 64 (2048 * k), bytes := data }).withBufferBack b p

theorem handedOver_faultCause {data : List Byte} {p : PNum} :
    ((handedOver s r k b data p).part p).faultCause = (s.part p).faultCause := by
  rw [handedOver, State.withBufferBack, withPart_part_same]
  rfl

theorem handedOver_windows {data : List Byte} {p : PNum} : (handedOver s r k b data p).windows = s.windows := (rfl)

theorem handedOver_slots {data : List Byte} {p : PNum} : (handedOver s r k b data p).slots = s.slots := (rfl)

variable (ctx : x.ctx = some m) (member : x.member = some r) (live : x.live = true) (found : x.chunk k = some c)
  (inTurn : x.inTurn = some c) (held : c.phase = .held) (others : ∀ d ∈ x.chunks, d.chunk ≠ k → d.phase ≠ .held)
  (done : m.doneChunks = k) (ahead : m.doneAhead = [])
include ctx member live found inTurn held others done ahead

/-- R84, R88: a COPY_OUT chunk hands its data over and ends, nobody waiting for its buffer. -/
theorem settles_handOver (copyOut : opOf r = some .copyOut) (absent : i ∉ s.link.placeWaiters) (place : s.link.placesUsed < 64)
    (buffer : c.buffer = some b) (nobody : s.pool.waiting = [])
    (rest : Settles n (putSlot (handedOver s r k b ((s.buffer b).data.take c.size) x.partition) i (doneSlot x m r k)) [.afterEnd i, .turn i] t) :
    Settles (n + 2) (putSlot s i x) [.turn i] t := by
  have number : c.chunk = k := chunk_number found
  have ended : endedChunk x k true = doneSlot x m r k := endedChunk_inOrder ctx member done ahead
  let w : PostedWrite := { kind := .data, addr := r.hostAddr + BitVec.ofNat 64 (2048 * k), bytes := (s.buffer b).data.take c.size }
  have ends := endChunk_quiet (s := s.postWrite w) (i := i) (counted := true) found (by rw [ended]; exact doneSlot_quiet others)
  have hands : (putSlot s i x).handOverChunk i r c = (putSlot (s.postWrite w) i x).endChunk i k true := by
    unfold State.handOverChunk
    rw [buffer, number]
    rfl
  have turn := (takeTurn_handsOver (s := s) (i := i) ctx member copyOut inTurn live held rfl absent place).trans (hands.trans ends)
  rw [ended, show bufferRelease x.partition c = [.release b x.partition] by simp [bufferRelease, buffer]] at turn
  exact settles_cons (w := .turn i) turn (settles_cons (release_free (s := putSlot (s.postWrite w) i _) nobody) rest)

/-- R87, R88: a DIGEST chunk enters the CRC register and ends. -/
theorem settles_digest (digest : opOf r = some .digest) (buffer : c.buffer = none)
    (rest : Settles n (putSlot s i (doneSlot x { m with crc := crcEnter m.crc c.size (c.part.getD 0) } r k)) [.afterEnd i, .turn i] t) :
    Settles (n + 1) (putSlot s i x) [.turn i] t := by
  have number : c.chunk = k := chunk_number found
  let m' : MemberCtx := { m with crc := crcEnter m.crc c.size (c.part.getD 0) }
  let x' : Slot := { x with ctx := some m' }
  have ended : endedChunk x' k true = doneSlot x m' r k := endedChunk_inOrder (x := x') rfl member done ahead
  have ends := endChunk_quiet (s := s) (i := i) (x := x') (counted := true) found
    (by rw [ended]; exact doneSlot_quiet others)
  have enters : (putSlot s i x).enterCrc i m c = (putSlot s i x').endChunk i k true := by
    unfold State.enterCrc
    rw [putSlot_withSlot, number]
  have turn := (takeTurn_digest (s := s) (i := i) ctx member digest inTurn live held rfl).trans (enters.trans ends)
  rw [ended, show bufferRelease x'.partition c = [] by simp [bufferRelease, buffer]] at turn
  exact settles_cons (w := .turn i) turn rest

end TurnEnds

/-! ### The slot when its member has ended -/

section Answered
variable {s : State} {i : SNum} {x y : Slot} {m : MemberCtx} {r : SubRecord} {k : Nat} {v : Verdict} {refs : List WNum}

/-- R89, R90, R99: what a member leaves in its slot when its last chunk `k` has ended. -/
theorem endedSlot_done (last : x.chunks.filter (fun d => decide (d.chunk ≠ k)) = []) (m' : MemberCtx) :
    endedSlot (doneSlot x m r k) m' = { x with
      bytesDone := x.bytesDone + min 2048 (r.length.toNat - 2048 * k)
      digest := if x.op = some .digest then some (crcFinal m'.crc) else x.digest
      ctx := none, chunks := [] } := by
  rw [endedSlot, doneSlot, last]
  rfl

/-- R17, R97: the group's answer in the words of the statements. -/
theorem answered_eq {f : Slot → Slot} (slot : y = { f x with ctx := none, chunks := [] })
    (kept : ∀ w ∈ refs, (s.window w).st ≠ .retiring ∨ refs.count w < (s.window w).refs) :
    (putSlot (s.dropRefs refs) i y).postGroup i v = (putSlot s i x).withGroupAnswered i refs f v := by
  rw [slot]
  exact withGroupAnswered_eq kept

end Answered

end Sys2Proof.Machine.Proofs
end

section
/-! The issue of posted writes, and what the issue of chunk data and of a group's completion brings about (R181, R98, R37, R40, R65):
O49. -/

namespace Sys2Proof.Machine.Proofs

open Laws

/-! ### The watermark evaluated twice -/

section Watermark
variable {s : State}

/-- R117: an evaluation leaves nothing for another one to do. -/
theorem watermarkStep_settled (low : Bool) (w n : Nat) :
    watermarkStep (watermarkStep low w n).1 w n = ((watermarkStep low w n).1, none) := by
  unfold watermarkStep
  cases low <;> by_cases none : w = 0 <;> by_cases reached : w ≤ n
  all_goals simp [none, reached, Nat.not_lt.mpr, Nat.not_le.mp]

theorem evalWatermark_settled (h : watermarkStep s.pool.low s.pool.watermark s.sharedFree = (s.pool.low, none)) : s.evalWatermark = s := by
  unfold State.evalWatermark
  rw [h]
  rfl

theorem reevaluate_settled {before : Nat} (h : watermarkStep s.pool.low s.pool.watermark s.sharedFree = (s.pool.low, none)) :
    s.reevaluate before = s := by
  unfold State.reevaluate
  split
  · rfl
  · exact evalWatermark_settled h

theorem pool_evalWatermark : s.evalWatermark.pool
    = { s.pool with low := (watermarkStep s.pool.low s.pool.watermark s.sharedFree).1 } := by
  unfold State.evalWatermark
  dsimp only
  split
  · exact pool_of_blocks (blocks_handOver ..)
  · rfl

theorem evaluated_settled {t : State} (pool : t.pool = s.evalWatermark.pool) (share : purse t = purse s) :
    watermarkStep t.pool.low t.pool.watermark t.sharedFree = (t.pool.low, none) := by
  rw [pool, sharedFree_of_purse share, pool_evalWatermark]
  exact watermarkStep_settled ..

end Watermark

/-! ### The issue of the first write -/

section Issue
variable {s : State} {w : PostedWrite} {rest : List PostedWrite}

/-- R181: the whole of the first write goes out. -/
def writeOut (s : State) (w : PostedWrite) (rest : List PostedWrite) : State :=
  s.withLink fun l => { l with store := rest, out := some (.write w.addr w.bytes) }

theorem exec_issue (running : s.device.st = .running) (store : s.link.store = w :: rest) :
    exec .postedWriteIssue s = .next ((s.issueFirst w).1.finish s.sharedFree (s.issueFirst w).2) := by
  have issues : s.issues = true := by simp [State.issues, State.halted, running]
  refine congrArg Host.Outcome.next ?_
  rw [issues, store]

theorem issueFirst_whole (store : s.link.store = w :: rest) (whole : w.pieceLen = w.bytes.length) :
    s.issueFirst w = (writeOut s w rest).writeIssued w.kind := by
  have none : w.rest.bytes.isEmpty = true := by simp [PostedWrite.rest, whole]
  have link : s.link.issueWrite = { s.link with store := rest, out := some (.write w.addr w.bytes) } := by
    unfold Link.issueWrite
    rw [store]
    dsimp only
    rw [if_pos none, whole, List.take_length]
  unfold State.issueFirst
  dsimp only
  rw [if_pos none, State.withLink, link]
  rfl

theorem issueFirst_piece (store : s.link.store = w :: rest) (part : w.pieceLen < w.bytes.length) :
    s.issueFirst w = (s.withLink fun l => { l with store := w.rest :: rest, out := some (.write w.addr (w.bytes.take w.pieceLen)) }, []) := by
  have more : w.rest.bytes.isEmpty = false := by
    simp [PostedWrite.rest, part]
  have link : s.link.issueWrite = { s.link with store := w.rest :: rest, out := some (.write w.addr (w.bytes.take w.pieceLen)) } := by
    unfold Link.issueWrite
    rw [store]
    dsimp only
    rw [more]
    rfl
  unfold State.issueFirst
  dsimp only
  rw [more, State.withLink, link]
  rfl

theorem pieceLen_record (record : w.kind ≠ .data) : w.pieceLen = w.bytes.length := by
  simp [PostedWrite.pieceLen, PostedWrite.isData, record]

theorem pieceLen_data (data : w.kind = .data) : w.pieceLen = min w.bytes.length (256 - w.addr.toNat % 256) := by
  simp [PostedWrite.pieceLen, PostedWrite.isData, data, Config.writeCut]

end Issue

/-! ### The completion that goes out -/

section Completion
variable {s t u : State} {i j : SNum} {p : PNum} {n : Nat} {more : List Work}

theorem slotFreed_withSlot (f : Slot → Slot) : slotFreed (s.withSlot i f) i p = slotFreed s i p :=
  congrArg (fun u : State => u.withPart p fun y => { y with slotsHeld := y.slotsHeld - 1 })
    (putSlot_putSlot (s := s) (i := i) (x := f (s.slot i)) Slot.free)

/-- R98: a POSTING slot that awaits no error path step is freed with the issue of its completion. -/
theorem settles_completion (posting : (s.slot i).st = .posting) (noError : (s.slot i).errorDue = false)
    (frees : (s.withSlot i fun x => { x with posted := true }).freeSlot i = (u, more)) (rest : Settles n u more t) :
    Settles (n + 2) s [.completionIssued i] t := by
  have slot : (s.withSlot i fun x => { x with posted := true }).slot i = { s.slot i with posted := true } := withSlot_slot_same ..
  have releases : (s.withSlot i fun x => { x with posted := true }).doWork (.release98 i) = (u, more) := by
    refine (if_pos ?_).trans frees
    rw [slot]
    exact ⟨posting, rfl, noError⟩
  exact settles_cons (w := .completionIssued i) (more := [.release98 i]) rfl
    (settles_cons (ws := []) releases ((List.append_nil more).symm ▸ rest))

variable (mine : (s.slot i).partition = p)
include mine

theorem freeSlot_issued (stays : (s.part p).st ≠ .quiescing ∧ (s.part p).st ≠ .closing) :
    (s.withSlot i fun x => { x with posted := true }).freeSlot i = (slotFreed s i p, [.barrier p]) := by
  have partition : ((s.withSlot i fun x => { x with posted := true }).slot i).partition = p := by rw [withSlot_slot_same]; exact mine
  rw [freeSlot_stays partition stays, slotFreed_withSlot]

variable (last : (s.part p).slotsHeld = 1)
include last

/-- R37: the last slot of a QUIESCING partition ends its quiesce. -/
theorem freeSlot_quiesced (quiescing : (s.part p).st = .quiescing) :
    (s.withSlot i fun x => { x with posted := true }).freeSlot i
      = (((slotFreed s i p).withPart p fun y => { y with st := .quiesced, pendingTag := none }).reportDeferred .partitionQuiesce p.val .ok, []) := by
  have partition : ((s.withSlot i fun x => { x with posted := true }).slot i).partition = p := by rw [withSlot_slot_same]; exact mine
  have entry : (slotFreed (s.withSlot i fun x => { x with posted := true }) i p).part p = { s.part p with slotsHeld := (s.part p).slotsHeld - 1 } :=
    slotFreed_part
  rw [← slotFreed_withSlot (f := fun x => { x with posted := true })]
  unfold State.freeSlot
  dsimp only
  rw [partition]
  refine if_pos ?_
  rw [show (((s.withSlot i fun x => { x with posted := true }).withSlot i fun _ => Slot.free).withPart p _).part p = _ from entry, last]
  exact ⟨rfl, quiescing⟩

/-- R40: the last slot of a CLOSING partition ends its closing. -/
theorem freeSlot_closing (closing : (s.part p).st = .closing) :
    (s.withSlot i fun x => { x with posted := true }).freeSlot i = (slotFreed s i p, [.endClosing p]) := by
  have partition : ((s.withSlot i fun x => { x with posted := true }).slot i).partition = p := by rw [withSlot_slot_same]; exact mine
  have entry : (slotFreed (s.withSlot i fun x => { x with posted := true }) i p).part p = { s.part p with slotsHeld := (s.part p).slotsHeld - 1 } :=
    slotFreed_part
  rw [← slotFreed_withSlot (f := fun x => { x with posted := true })]
  unfold State.freeSlot
  dsimp only
  rw [partition, show (((s.withSlot i fun x => { x with posted := true }).withSlot i fun _ => Slot.free).withPart p _).part p = _ from entry,
    last, if_neg (fun h => by cases closing.symm.trans h.2)]
  exact if_pos ⟨rfl, closing⟩

end Completion

section Follows
variable {s t : State} {i j : SNum} {p : PNum} {n : Nat}

/-- R65: a barrier group that waits as its partition's only occupied slot runs. -/
theorem barrier_runs (slots : s.slotsOf p = [j]) (waits : (s.slot j).st = .waitOrder) (noAbort : (s.slot j).abort = none) :
    s.doWork (.barrier p) = (putSlot s j { s.slot j with st := .running }, [.startMember j]) := by
  have alone : s.alone p = [j] := by rw [State.alone, slots]
  simp only [State.doWork, State.barrierRelease, alone]
  exact if_pos ⟨waits, noAbort⟩

/-- R40, R165: the closing of a partition ends while nobody waits for a buffer, and the close that waits completes OK. -/
theorem settles_endClosing {k : Fin 8} {e : Deferred} (nobody : s.pool.waiting = []) (live : s.halted = false)
    (waits : s.deferredAt .partitionClose p.val = some k) (entry : look s.admin.deferred k = some e) (post : e.post = true) :
    Settles 3 s [.endClosing p] ((((s.withPart p fun y => { y with st := .closed, pendingTag := none }).evalWatermark).setDeferred
      k none).adminComplete 0x04 e.tag .ok 0) := by
  let c := s.withPart p fun y => { y with st := .closed, pendingTag := none }
  have pass : c.doWork .pass = (c, []) := by
    have stops := arbiterPass_empty 128 c nobody
    simp only [State.doWork, stops]
    rfl
  have berths : berth c.evalWatermark = berth c := berth_evalWatermark c
  have answers : c.doWork (.answerClose p) = ((c.evalWatermark.setDeferred k none).adminComplete 0x04 e.tag .ok 0, []) := by
    have found : c.deferredAt .partitionClose p.val = some k := waits
    have entry' : look c.admin.deferred k = some e := entry
    obtain ⟨d, at', op, -⟩ := deferredAt_some waits
    obtain rfl : e = d := Option.some.inj (entry.symm.trans at')
    have report := reportDeferred_post c.evalWatermark .partitionClose p.val .ok k e ((deferredAt_of_berth berths).trans waits)
      (by rw [show c.evalWatermark.admin.deferred = c.admin.deferred from congrArg (fun b => b.2.2.1) berths]; exact entry) post
      ((halted_evalWatermark _).trans live)
    rw [op] at report
    simp only [State.doWork, State.answerClose, found, entry', post, if_true, report]
    rfl
  exact settles_cons (w := .endClosing p) (more := [.pass, .answerClose p]) rfl
    (settles_cons pass (settles_cons answers (settles_nil _)))

end Follows

section OneFill
variable {s : State} {j : SNum} {y : Slot} {r : SubRecord} {w : WNum} {range : CardRange}

/-- R77, R79, R86: a FILL of one chunk starts and issues its card write. -/
theorem settles_oneFill (member : y.member = some r) (live : y.live = true) (noChunks : y.chunks = [])
    (check : s.startCheck y.partition r = .ok { op := .fill, primary := some range, secondary := none, refs := [w] })
    (short : r.length.toNat ≤ 2048) (clear : FenceClear s range.base r.length.toNat) :
    Settles 3 (putSlot s j y) [.startMember j]
      (putSlot ((s.withWindow w fun y => { y with refs := y.refs + 1 }).withAccess j 0 range.base r.length.toNat
          (some (fillData r r.length.toNat))) j
        { y with
          ctx := some { primary := some range, secondary := none, refs := [w], count := 1, next := 1, doneChunks := 0, doneAhead := [],
                        crc := r.pattern.setWidth 32 }
          chunks := [newChunk 0 r.length.toNat .writing none 0] }) := by
  let t : Translated := { op := .fill, primary := some range, secondary := none, refs := [w] }
  let ctx (n : Nat) : MemberCtx :=
    { primary := some range, secondary := none, refs := [w], count := 1, next := n, doneChunks := 0, doneAhead := [], crc := r.pattern.setWidth 32 }
  let z : Slot := { y with ctx := some (ctx 0) }
  have positive := startCheck_length check (by simp)
  have size : chunkLen r.length.toNat 0 = r.length.toNat := by simp only [chunkLen, Config.chunkSize]; omega
  have count : chunkCount r.length.toNat = 1 := by simp only [chunkCount, Config.chunkSize]; omega
  have context : memberCtx r t = ctx 0 := by
    rw [memberCtx, count]
    rfl
  have named : opOf r = some .fill := startCheck_named check
  have may : z.mayStart (ctx 0) = true := by
    have few : z.chunks.length < Config.chunkContexts := by rw [show z.chunks = [] from noChunks]; decide
    simp only [Slot.mayStart, Bool.and_eq_true, decide_eq_true_iff]
    exact ⟨⟨live, few⟩, Nat.one_pos⟩
  have chunks (u : State) : putSlot u j (withChunk z (ctx 0) r .writing none 0)
      = putSlot u j { y with ctx := some (ctx 1), chunks := [newChunk 0 r.length.toNat .writing none 0] } := by
    rw [withChunk, show z.chunks = [] from noChunks, show (ctx 0).next = 0 from rfl, size]
    rfl
  have chain := settles_chunk (s := s.takeRefs [w]) (i := j) (x := z) (range := range) rfl member named may rfl (write := some (fillData r r.length.toNat)) (phase := .writing)
    (by rw [firstAccess, show (ctx 0).next = 0 from rfl, size])
    (by rw [show (ctx 0).next = 0 from rfl, size]; exact clear)
    fun u => startChunks_ends (c := ctx 1) rfl member named (by simp [Slot.mayStart, ctx])
  rw [show (ctx 0).next = 0 from rfl, size, chunks] at chain
  exact settles_start member live check (by simp) (by rw [context]; exact chain)

end OneFill

/-- Settles O49: the pieces of chunk data, the place they leave, and the slot that a completion's issue frees. -/
theorem postedWriteIssued : Obligations.PostedWriteIssued := by
  intro s w rest store
  let out := writeOut s w rest
  have nothing {u : State} (running : s.device.st = .running) (acts : s.issueFirst w = (u, [])) (device : u.device = s.device)
      (share : purse u = purse s) : exec .postedWriteIssue s = .next u := by
    rw [exec_issue running store, acts]
    exact congrArg Host.Outcome.next (finish_idle u _ (sharedFree_of_purse share)
      (endStop_of_not_stopping _ (decide_eq_false (by rw [device, running]; decide))))
  have ends {u t : State} {k : Nat} {ws : List Work} (running : s.device.st = .running) (acts : s.issueFirst w = (u, ws)) (intact : Intact s.device u)
      (chain : Settles k u ws t) (small : k ≤ Config.innerBound) : exec .postedWriteIssue s = .next (t.reevaluate s.sharedFree) := by
    rw [exec_issue running store, acts]
    exact congrArg Host.Outcome.next (finish_chain intact (by simp [running]) chain small (by simp [running]))
  refine ⟨fun idle => ?_, fun running record => ?_, fun running data long => ?_, fun running data short => ⟨fun none => ?_, ?_⟩, ?_⟩
  · have idle : s.issues = false := by rcases idle with h | h <;> simp [State.issues, State.halted, h]
    refine congrArg Host.Outcome.next ?_
    rw [idle]
  · have whole : w.pieceLen = w.bytes.length := pieceLen_record (by rcases record with h | h | h | ⟨v, h⟩ <;> rw [h] <;> simp)
    have acts : (writeOut s w rest).writeIssued w.kind = (out, []) := by rcases record with h | h | h | ⟨v, h⟩ <;> rw [h] <;> rfl
    exact nothing running ((issueFirst_whole store whole).trans acts) rfl rfl
  · have piece : w.pieceLen = 256 - w.addr.toNat % 256 := by
      rw [pieceLen_data data]
      omega
    have acts := issueFirst_piece store (by rw [piece]; omega)
    rw [PostedWrite.rest, piece] at acts
    exact nothing running acts rfl rfl
  · have whole : w.pieceLen = w.bytes.length := by
      rw [pieceLen_data data]
      omega
    have acts : (writeOut s w rest).writeIssued w.kind = (out, []) := by
      rw [data, State.writeIssued, show (writeOut s w rest).link.placeWaiters = [] from none]
    exact nothing running ((issueFirst_whole store whole).trans acts) rfl rfl
  · intro j more r m c b good waiters absent places last isCopyOut held buffer nobody handed
    obtain ⟨⟨st, noVerdict, noAbort, ctx, member⟩, length, chunks, count, next, done, ahead, low, high, kept, notBroken⟩ := last
    have whole : w.pieceLen = w.bytes.length := by
      rw [pieceLen_data data]
      omega
    let u := out.withLink fun l => { l with placeWaiters := more }
    let x := s.slot j
    let S := handedOver u r c.chunk b ((s.buffer b).data.take c.size) x.partition
    have acts : (writeOut s w rest).writeIssued w.kind = (u, [.turn j]) := by
      rw [data, State.writeIssued, show (writeOut s w rest).link.placeWaiters = j :: more from waiters]
    have copyOut : opOf r = some .copyOut := opOf_eq_some_iff.mpr (by rw [isCopyOut]; rfl)
    have live : x.live = true := live_iff.mpr ⟨st, noVerdict, noAbort⟩
    have noneLeft : x.chunks.filter (fun d => decide (d.chunk ≠ c.chunk)) = [] := by simp [x, chunks]
    have broken : (S.part x.partition).faultCause ≠ some .cqIndex := by
      rw [handedOver_faultCause]
      exact notBroken
    have goesOn := settles_lastEnds (s := S) (i := j) (x := doneSlot x m r c.chunk) rfl live noneLeft (by rw [count, next])
      broken (by exact length.le)
    have chain := settles_handOver (s := u) (i := j) (x := x) (b := b) (c := c) ctx member live (k := c.chunk) (by simp [x, Slot.chunk, chunks])
      (by simp [x, Slot.inTurn, chunks, held]) held (by simp [x, chunks]) done ahead copyOut absent places buffer nobody goesOn
    rw [show putSlot u j x = u from putSlot_self] at chain
    rw [ends running ((issueFirst_whole store whole).trans acts) ⟨rfl, good⟩ chain (by decide)]
    have plain : x.op ≠ some .digest := by
      rw [show x.op = some .copyOut from (congrArg (Option.bind · opOf) member).trans copyOut]
      decide
    have answered := answered_eq (s := S) (i := j) (x := x) (refs := m.refs) (v := { status := .ok, detail := 0, failedMember := 0 })
      (f := fun x => { x with bytesDone := x.bytesDone + (r.length.toNat - 2048 * c.chunk) })
      ((endedSlot_done (m := m) (r := r) noneLeft { m with doneChunks := c.chunk + 1, doneAhead := [] }).trans
        (by rw [if_neg plain, show min 2048 (r.length.toNat - 2048 * c.chunk) = r.length.toNat - 2048 * c.chunk by omega]))
      (fun v hv => by rw [show S.window v = s.window v from congrArg (look · v) handedOver_windows]; exact kept v hv)
    have slot : S.slot j = x := congrArg (look · j) handedOver_slots
    rw [show putSlot S j x = S from slot ▸ putSlot_self] at answered
    have same : S = handed.withBufferBack b (s.slot j).partition := rfl
    rw [same] at answered
    rw [same]
    exact congrArg (fun t : State => Host.Outcome.next (t.reevaluate s.sharedFree)) answered
  · intro i running good completion posting noError p y freed
    have acts : s.issueFirst w = (out, [.completionIssued i]) := by
      rw [issueFirst_whole store (pieceLen_record (by rw [completion]; simp)), completion]
      rfl
    have live : s.halted = false := by simp [State.halted, running]
    have intact : Intact s.device out := ⟨rfl, good⟩
    have shareFreed : purse (slotFreed out i p) = purse s := purse_withPart (s := out.withSlot i _) p _ rfl
    have freedSlot (j : SNum) (other : j ≠ i) : (slotFreed out i p).slot j = s.slot j := slotFreed_slot_ne other
    have quiet {t : State} {n : Nat} {u : State} {more : List Work}
        (frees : (out.withSlot i fun x => { x with posted := true }).freeSlot i = (u, more)) (chain : Settles n u more t)
        (small : n + 2 ≤ Config.innerBound) (share : purse t = purse s) : exec .postedWriteIssue s = .next t := by
      rw [ends running acts intact (settles_completion posting noError frees chain) small, reevaluate_same _ _ (sharedFree_of_purse share)]
    have stays (opened : y.st = .opened) : (out.withSlot i fun x => { x with posted := true }).freeSlot i = (slotFreed out i p, [.barrier p]) :=
      freeSlot_issued (s := out) rfl (by rw [show (out.part p).st = .opened from opened]; exact ⟨by decide, by decide⟩)
    refine ⟨fun opened none => ?_, fun j r opened other waits mine alone noAbort noVerdict noCtx noChunks members current notBroken => ?_,
      fun k e quiescing last waits entry post => ?_, fun k e closing last nobody waits entry post => ?_⟩
    · refine quiet (stays opened) (settles_cons (barrier_idle fun j mine => ?_) (settles_nil _)) (by decide) shareFreed
      by_cases same : j = i
      · rw [same, slotFreed_slot]
        decide
      · rw [freedSlot j same] at mine ⊢
        exact none j mine
    · have slots : (slotFreed out i p).slotsOf p = [j] := by
        refine slotsOf_eq_singleton (by rw [freedSlot j other, waits]; decide) (by rw [freedSlot j other, mine]) fun k different occupied => ?_
        by_cases same : k = i
        · rw [same, slotFreed_slot] at occupied
          exact absurd rfl occupied
        · rw [freedSlot k same] at occupied ⊢
          exact alone k same different occupied
      let z : Slot := { s.slot j with st := .running }
      have runs : (slotFreed out i p).doWork (.barrier p) = (putSlot (slotFreed out i p) j z, [.startMember j]) := by
        have released := barrier_runs slots (by rw [freedSlot j other, waits]) (by rw [freedSlot j other, noAbort])
        rwa [freedSlot j other] at released
      have member : z.member = some r := by simp [z, Slot.member, members, current]
      have running' : z.live = true := live_iff.mpr ⟨rfl, noVerdict, noAbort⟩
      have slot (f : Slot → Slot) : (slotFreed out i p).withSlot j f = putSlot (slotFreed out i p) j (f (s.slot j)) := by
        rw [withSlot_eq_putSlot, freedSlot j other]
      refine ⟨fun check => ?_, fun v range check short clear => ?_⟩
      · have marks := settles_mark (s := slotFreed out i p) (i := j) (x := z) member running' (mine ▸ check) noCtx
          (by simp [z, members, current]) (by
            rw [show z.partition = p from mine, slotFreed_part]
            exact notBroken)
        refine (quiet (stays opened) (settles_cons runs marks) (by decide) ?_).trans (congrArg Host.Outcome.next ?_)
        · exact (purse_postGroup ..).trans shareFreed
        · rw [← slot fun x => { x with st := .running }]
          rfl
      · have fills := settles_oneFill (s := slotFreed out i p) (j := j) (y := z) member running' noChunks (mine ▸ check) short clear
        refine (quiet (stays opened) (settles_cons runs fills) (by decide) shareFreed).trans (congrArg Host.Outcome.next ?_)
        have kept : ((slotFreed out i p).withWindow v fun y => { y with refs := y.refs + 1 }).slot j = s.slot j := freedSlot j other
        rw [show freed = slotFreed out i p from rfl, withSlot_eq_putSlot, kept]
        rfl
    · let q := (slotFreed out i p).withPart p fun y => { y with st := .quiesced, pendingTag := none }
      have deficit : ({ (slotFreed out i p).part p with st := .quiesced, pendingTag := none } : Partition).deficit
          = ((slotFreed out i p).part p).deficit := by
        rw [slotFreed_part, deficit_eq, deficit_eq, show (out.part p).st = .quiescing from quiescing]
        rfl
      have share : purse q = purse s := (purse_withPart (s := slotFreed out i p) p _ deficit).trans shareFreed
      obtain ⟨d, at', op, -⟩ := deferredAt_some waits
      obtain rfl : e = d := Option.some.inj (entry.symm.trans at')
      have report : q.reportDeferred .partitionQuiesce p.val .ok = (q.setDeferred k none).adminComplete 0x02 e.tag .ok 0 := by
        rw [reportDeferred_post q .partitionQuiesce p.val .ok k e waits entry post live, op]
        rfl
      have frees := freeSlot_quiesced (s := out) rfl last quiescing
      rw [show (slotFreed out i (out.slot i).partition).withPart (out.slot i).partition _ = q from rfl,
        show (out.slot i).partition.val = p.val from rfl, report] at frees
      exact quiet frees (settles_nil _) (by decide) ((purse_of_ledger (ledger_adminComplete ..)).trans share)
    · let c := (slotFreed out i p).withPart p fun y => { y with st := .closed, pendingTag := none }
      have chain := settles_endClosing (s := slotFreed out i p) (p := p) nobody live waits entry post
      have settled := evaluated_settled (s := c) (t := (c.evalWatermark.setDeferred k none).adminComplete 0x04 e.tag .ok 0)
        (pool_of_blocks (blocks_adminComplete ..)) (purse_of_ledger ((ledger_adminComplete ..).trans (ledger_evalWatermark _)))
      rw [ends running acts intact (settles_completion posting noError (freeSlot_closing (s := out) rfl last closing) chain) (by decide),
        reevaluate_settled settled]
      rfl

end Sys2Proof.Machine.Proofs
end

section
/-! The acknowledge of a FILL's one chunk (R86, R88, R90, R96, R97, R17, R18, R27): O47. -/

namespace Sys2Proof.Machine.Proofs

open Laws

/-! ### Operations that look at neither card memory nor the draws -/

section CardDraws
variable {s : State} {cd : Card × Nat} {i : SNum} {w : WNum}

theorem react_withCardDraws (n : VNum) (r : Reaction) : (s.withCardDraws cd).react n r = (s.react n r).withCardDraws cd := by
  unfold State.react
  dsimp only
  split <;> rfl

theorem newRecord_withCardDraws (n : VNum) (u : Bool) : (s.withCardDraws cd).newRecord n u = (s.newRecord n u).withCardDraws cd :=
  react_withCardDraws ..

theorem adminComplete_withCardDraws (o : Nat) (t : Tag) (a : AdminStatus) (d : Nat) :
    (s.withCardDraws cd).adminComplete o t a d = (s.adminComplete o t a d).withCardDraws cd := by
  unfold State.adminComplete
  dsimp only
  rw [← newRecord_withCardDraws]
  rfl

theorem reportDeferred_withCardDraws (o : DeferOp) (n : Nat) (a : AdminStatus) :
    (s.withCardDraws cd).reportDeferred o n a = (s.reportDeferred o n a).withCardDraws cd := by
  have same : (s.withCardDraws cd).deferredAt o n = s.deferredAt o n := rfl
  have stands : (s.withCardDraws cd).halted = s.halted := rfl
  unfold State.reportDeferred
  rw [same]
  cases s.deferredAt o n with
  | none => rfl
  | some j =>
    have entry : look (s.withCardDraws cd).admin.deferred j = look s.admin.deferred j := rfl
    dsimp only
    rw [entry]
    cases look s.admin.deferred j with
    | none => rfl
    | some d =>
      dsimp only
      rw [stands]
      split
      · rfl
      · split
        · exact adminComplete_withCardDraws (s := s.setDeferred j none) ..
        · rfl

theorem dropRef_withCardDraws : (s.withCardDraws cd).dropRef w = (s.dropRef w).withCardDraws cd := by
  have window : ((s.withCardDraws cd).withWindow w fun y => { y with refs := y.refs - 1 }).window w
      = (s.withWindow w fun y => { y with refs := y.refs - 1 }).window w := rfl
  unfold State.dropRef
  dsimp only
  rw [window]
  split
  · split
    · exact reportDeferred_withCardDraws (s := (s.withWindow w _).withWindow w _) ..
    · rfl
  · rfl

theorem postGroup_withCardDraws (v : Verdict) : (s.withCardDraws cd).postGroup i v = (s.postGroup i v).withCardDraws cd := by
  have slot : (s.withCardDraws cd).slot i = s.slot i := rfl
  have part (p : PNum) : (s.withCardDraws cd).part p = s.part p := rfl
  unfold State.postGroup
  dsimp only
  rw [slot, part]
  split
  · rfl
  · rw [← newRecord_withCardDraws]
    rfl

/-- R2, R5: a write that is carried out changes card memory, the accesses in progress and the draws. -/
theorem writeReached_eq (o : CardOp) (badFirst badLast : Bool) : ∃ cd, s.writeReached o badFirst badLast = s.withCardDraws cd := by
  unfold State.writeReached State.scrubOn
  dsimp only
  split
  · exact ⟨_, rfl⟩
  · exact ⟨_, rfl⟩

end CardDraws

/-! ### The end of an access that fences count -/

section EndAccess
variable {s : State} {id : Nat} {a : AccessRecord}

/-- R21, R27: an access record gone, and the SETTING fences that counted it counting one less. -/
def countedOff (s : State) (id : Nat) (a : AccessRecord) : State :=
  s.withFences fun u => { u with
    records := u.records.filter fun a => decide (a.id ≠ id)
    entries := mapTab (fun f y =>
      if f ∈ a.countedBy ∧ y.st = .setting then { y with outstanding := y.outstanding.map (· - 1) } else y) u.entries }

theorem endRecord_counted (record : s.fences.records.find? (fun a => decide (a.id = id)) = some a) (nodup : a.countedBy.Nodup)
    (left : ∀ f ∈ a.countedBy, (s.fence f).st = .setting → ∃ m, (s.fence f).outstanding = some (m + 2)) :
    s.endRecord id = countedOff s id a := by
  rw [endRecord_found s id a record, countDownFences_left _ _ nodup (by exact left)]
  rfl

end EndAccess

/-! ### The window that loses a reference -/

section DropRef
variable {s : State} {w : WNum}

theorem withWindow_withWindow (f g : Window → Window) : (s.withWindow w f).withWindow w g = s.withWindow w fun y => g (f y) := by
  refine congrArg (fun windows => { s with windows }) (table_ext _ _ fun v => ?_)
  by_cases same : v = w
  · subst same
    simp
  · exact (look_upd_ne _ _ _ _ same).trans ((look_upd_ne _ _ _ _ same).trans (look_upd_ne _ _ _ _ same).symm)

theorem dropRef_stays (stays : (s.window w).st ≠ .retiring ∨ 2 ≤ (s.window w).refs) :
    s.dropRef w = s.withWindow w fun y => { y with refs := y.refs - 1 } := by
  unfold State.dropRef
  dsimp only
  refine if_neg ?_
  rw [withWindow_window_same]
  rintro ⟨retiring, none⟩
  rcases stays with other | more
  · exact other retiring
  · simp only at none
    omega

/-- R18: a RETIRING window that loses its last reference. -/
theorem dropRef_frees (retiring : (s.window w).st = .retiring) (last : (s.window w).refs = 1) : s.dropRef w
    = if (s.window w).closeTag.isSome then (s.withWindow w Window.freed).reportDeferred .windowClose w.val .ok
      else s.withWindow w Window.freed := by
  have frees : (s.withWindow w fun y => { y with refs := y.refs - 1 }).withWindow w Window.freed = s.withWindow w Window.freed :=
    withWindow_withWindow ..
  unfold State.dropRef
  dsimp only
  rw [frees, withWindow_window_same]
  exact if_pos ⟨retiring, by rw [last]⟩

end DropRef

/-- Settles O47: the chunk's end ends its member, whose window loses its reference, and the group is answered. -/
theorem fillMemberEnds : Obligations.FillMemberEnds := by
  intro s o data i c m r w a running good stands writes inSpace owner record nodup left st noVerdict noAbort ctx count next done ahead refs
    length member isFill short chunks number noBuffer noFault y gone freed ends
  have live : s.halted = false := by simp [State.halted, running]
  have notStopping : s.device.st ≠ .stopping := by simp [running]
  have found : s.cardWrite o.id = some o := by simp [State.cardWrite, stands, writes]
  have fits : o.inSpace = true := decide_eq_true inSpace
  obtain ⟨cd, reached⟩ := writeReached_eq (s := s) o false false
  let after : Card × Nat := (cd.1.drop o.id, cd.2)
  let S := gone.withCardDraws after
  let x := s.slot i
  let p := x.partition
  have ended : (s.writeReached o false false).endAccess o.id = S := by
    rw [reached]
    exact endRecord_counted (s := s.withCardDraws after) record nodup left
  have run : exec (.cardWriteAcknowledge o.id false false) s
      = .next (((S.endChunk i 0 true).1.finish s.sharedFree (S.endChunk i 0 true).2).endStop) := by
    show (match s.cardWrite o.id with | none => _ | some o => _) = _
    rw [found]
    dsimp only
    rw [fits, ended, endAtSlot_good (s := S) owner live good]
    rfl
  have noneLeft : x.chunks.filter (fun d => decide (d.chunk ≠ 0)) = [] := by simp [x, chunks, number]
  have inChunks : x.chunk 0 = some c := by simp [x, Slot.chunk, chunks, number]
  have others : ∀ d ∈ x.chunks, d.chunk ≠ 0 → d.phase ≠ .held := by simp [x, chunks, number]
  have slotDone : endedChunk x 0 true = doneSlot x m r 0 := endedChunk_inOrder ctx member done ahead
  have endsChunk : S.endChunk i 0 true = (putSlot S i (doneSlot x m r 0), [.afterEnd i, .turn i]) := by
    have quiet := endChunk_quiet (s := S) (i := i) (counted := true) inChunks (by rw [slotDone]; exact doneSlot_quiet others)
    rw [slotDone, show putSlot S i x = S from putSlot_self (s := S)] at quiet
    simpa [bufferRelease, noBuffer] using quiet
  have plain : x.op ≠ some .digest := by
    rw [show x.op = some .fill from (congrArg (Option.bind · opOf) member).trans (opOf_eq_some_iff.mpr (by rw [isFill]; rfl))]
    decide
  let m' : MemberCtx := { m with doneChunks := 1, doneAhead := [] }
  let e : Slot := { x with ctx := none, chunks := [], bytesDone := x.bytesDone + r.length.toNat }
  have slotEnds : endedSlot (doneSlot x m r 0) m' = e := by
    rw [endedSlot_done noneLeft, if_neg plain]
    have bytes : min 2048 (r.length.toNat - 2048 * 0) = r.length.toNat := by omega
    rw [bytes]
  have chain := settles_lastEnds (s := S) (i := i) (x := doneSlot x m r 0) (m := m') rfl (live_iff.mpr ⟨st, noVerdict, noAbort⟩) noneLeft
    (show m.count ≤ m.next by rw [count, next]) (by rw [show (S.part (doneSlot x m r 0).partition).faultCause = none from noFault]; simp) (by exact length.le)
  rw [slotEnds, show m'.refs = [w] from refs] at chain
  have finishes {u : State} (drops : gone.dropRef w = u) (slot : u.slot i = x) : ends u := by
    let t := ((u.withSlot i fun x => { x with ctx := none, chunks := [], bytesDone := x.bytesDone + r.length.toNat }).postGroup i
      { status := .ok, detail := 0, failedMember := 0 }).withCardDraws after
    have answered : (putSlot (S.dropRefs [w]) i e).postGroup i { status := .ok, detail := 0, failedMember := 0 } = t := by
      rw [State.dropRefs, State.dropRefs, dropRef_withCardDraws, drops]
      refine (postGroup_withCardDraws (s := putSlot u i e) (cd := after) (i := i) _).trans ?_
      refine congrArg (fun v : State => (v.postGroup i { status := .ok, detail := 0, failedMember := 0 }).withCardDraws after) ?_
      rw [withSlot_eq_putSlot, slot]
    rw [answered] at chain
    have intact : Intact s.device (putSlot S i (doneSlot x m r 0)) := intact_putSlot ⟨rfl, good⟩ (good.1 i)
    have share : purse t = purse s := by
      rw [← answered]
      exact (purse_postGroup ..).trans ((purse_dropRefs ..).trans rfl)
    have result : exec (.cardWriteAcknowledge o.id false false) s = .next t := by
      rw [run, endsChunk, finish_chain intact (of_decide_eq_false live) chain (by decide) notStopping,
        reevaluate_same _ _ (sharedFree_of_purse share)]
      obtain ⟨device, -⟩ := intact_chain intact (of_decide_eq_false live) chain (by decide)
      exact congrArg Host.Outcome.next (endStop_of_not_stopping _ (decide_eq_false (device ▸ notStopping)))
    refine ⟨t, result, fun o' inOps => ?_, rfl⟩
    simpa using (List.mem_filter.mp inOps).2
  refine ⟨fun stays => finishes (dropRef_stays stays) rfl, fun retiring last noTag => finishes ?_ rfl,
    fun j d retiring last tag waits entry post => finishes ?_ ?_⟩
  · rw [dropRef_frees (s := gone) retiring last, show (gone.window w).closeTag = none from noTag]
    rfl
  · have tagged : (gone.window w).closeTag.isSome = true := Option.isSome_iff_ne_none.mpr tag
    obtain ⟨d', at', op, -⟩ := deferredAt_some waits
    obtain rfl : d = d' := Option.some.inj (entry.symm.trans at')
    rw [dropRef_frees (s := gone) retiring last, if_pos tagged,
      reportDeferred_post (gone.withWindow w Window.freed) .windowClose w.val .ok j d waits entry post live, op]
    rfl
  · exact slot_of_blocks (blocks_adminComplete (freed.setDeferred j none) ..) i

end Sys2Proof.Machine.Proofs
end

section
/-! A card read that no write is in the way of takes the bytes of card memory as they stand (R2, R3). -/

namespace Sys2Proof.Machine.Proofs

open Laws

section Read
variable {c : Card} {o : CardOp} {id : Nat} {bad : Nat → Bool} {d : Nat} {l : List Nat}

/-- R2, R3: what a read takes of one word. -/
def wordTaken (c : Card) (w : Nat) : Nat × List Byte × Bool := (w, readBytes c.mem (8 * w) 8, c.marks.contains w)

/-- R2: read `id` has taken the words of the list. -/
def wordsTaken (c : Card) (id : Nat) (l : List Nat) : Card :=
  c.change id fun x => { x with seen := (l.map (wordTaken c)).reverse ++ x.seen }

theorem wordsTaken_cons (w : Nat) : wordsTaken (c.takeWord id w) id l = wordsTaken c id (w :: l) := by
  refine congrArg (fun ops => { c with ops }) ?_
  refine (List.map_map ..).trans (List.map_congr_left fun x _ => ?_)
  by_cases mine : x.id = id
  · simp only [Function.comp_apply, mine, if_true, List.map_cons, List.reverse_cons, List.append_assoc]
    rfl
  · simp only [Function.comp_apply, mine, if_false]

/-- R2: reads alone wait for no order, and draw no free value. -/
theorem othersFirst_reads (reads : ∀ o' ∈ c.ops, o'.write = none) (w : Nat) : Card.othersFirst id false w (c, d) = (c, d) := by
  have apart : c.contended id false w = false := by
    simp only [Card.contended, List.any_eq_false, Bool.and_eq_true, decide_eq_true_eq, not_and]
    intro o' member _
    simp [CardOp.mayReach, reads o' member]
  simp [Card.othersFirst, apart]

theorem takeWord_reads (reads : ∀ o' ∈ c.ops, o'.write = none) (w : Nat) : ∀ o' ∈ (c.takeWord id w).ops, o'.write = none := by
  intro o' member
  obtain ⟨x, inOps, rfl⟩ := List.mem_map.mp member
  split
  · exact reads x inOps
  · exact reads x inOps

/-- R2: with only reads in progress, a read takes its words as they stand. -/
theorem finish_reads (isRead : o.write = none) (fresh : o.seen = []) (reads : ∀ o' ∈ c.ops, o'.write = none)
    (touched : ∀ w ∈ l, o.touches w = true) : Card.finish o bad l (c, d) = (wordsTaken c o.id l, d) := by
  induction l generalizing c with
  | nil =>
    refine congrArg (·, d) ?_
    have same : c.ops.map (fun x => if x.id = o.id then x else x) = c.ops := by simp
    exact (congrArg (fun ops => { c with ops }) same).symm
  | cons w l ih =>
    have comes : o.mayCome w = true := by
      simp [CardOp.mayCome, CardOp.mayTake, isRead, fresh, touched w (List.mem_cons_self ..)]
    have come : c.come o w (bad w) = c.takeWord o.id w := by simp [Card.come, isRead]
    rw [Card.finish, if_pos comes, isRead, show (none : Option (List Byte)).isSome = false from rfl, othersFirst_reads reads]
    dsimp only
    rw [come, ih (takeWord_reads reads w) fun v hv => touched v (List.mem_cons_of_mem _ hv), wordsTaken_cons]

theorem find_wordsTaken (stands : c.find id = some o) :
    (wordsTaken c id l).find id = some { o with seen := (l.map (wordTaken c)).reverse ++ o.seen } := by
  have mine : o.id = id := by simpa using List.find?_some stands
  have keeps (x : CardOp) : (if x.id = id then { x with seen := (l.map (wordTaken c)).reverse ++ x.seen } else x).id = x.id := by
    split <;> rfl
  unfold Card.find wordsTaken Card.change
  rw [List.find?_map]
  have same : (fun o : CardOp => decide (o.id = id)) ∘ (fun o => if o.id = id then { o with seen := (l.map (wordTaken c)).reverse ++ o.seen } else o)
      = fun o => decide (o.id = id) := funext fun x => by simp only [Function.comp_apply, keeps]
  rw [same, show c.ops.find? _ = some o from stands, Option.map_some, if_pos mine]

theorem drop_wordsTaken : (wordsTaken c id l).drop id = c.drop id := by
  refine congrArg (fun ops => { c with ops }) ?_
  refine (List.filter_map ..).trans ?_
  have same : (fun o : CardOp => decide (o.id ≠ id)) ∘ (fun o => if o.id = id then { o with seen := (l.map (wordTaken c)).reverse ++ o.seen } else o)
      = fun o => decide (o.id ≠ id) := funext fun x => by
    simp only [Function.comp_apply]
    split <;> rfl
  rw [same]
  refine (List.map_congr_left fun x member => ?_).trans (List.map_id _)
  rw [if_neg (by simpa using (List.mem_filter.mp member).2)]
  rfl

theorem getElem?_readBytes (m : List Host.Cell) (a n i : Nat) : (readBytes m a n)[i]? = if i < n then some (readByte m (a + i)) else none := by
  induction n generalizing a i with
  | zero => simp [readBytes]
  | succ n ih =>
    cases i with
    | zero => simp [readBytes]
    | succ i =>
      rw [readBytes, List.getElem?_cons_succ, ih, Nat.add_assoc, Nat.add_comm 1 i]
      simp

/-- R2: the data of a read that has taken all its words. -/
theorem data_taken (o : CardOp) (c : Card) : ({ o with seen := ((wordsOf o.base o.len).map (wordTaken c)).reverse } : CardOp).data
    = (List.range o.len).map fun j => readByte c.mem (o.base + j) := by
  refine List.map_congr_left fun j inRange => ?_
  have below : j < o.len := List.mem_range.mp inRange
  have inWords : wordOf (o.base + j) ∈ wordsOf o.base o.len := by
    rw [mem_wordsOf, wordOf]
    omega
  unfold CardOp.takenByte
  dsimp only
  cases found : (((wordsOf o.base o.len).map (wordTaken c)).reverse).find? fun x => decide (x.1 = wordOf (o.base + j)) with
  | none =>
    refine absurd (List.find?_eq_none.mp found (wordTaken c (wordOf (o.base + j))) ?_) (by simp [wordTaken])
    exact List.mem_reverse.mpr (List.mem_map_of_mem inWords)
  | some x =>
    obtain ⟨w, -, rfl⟩ := List.mem_map.mp (List.mem_reverse.mp (List.mem_of_find?_eq_some found))
    have here : w = wordOf (o.base + j) := by simpa [wordTaken] using List.find?_some found
    subst here
    have inWord : (o.base + j) % 8 < 8 := Nat.mod_lt _ (by decide)
    have address : 8 * wordOf (o.base + j) + (o.base + j) % 8 = o.base + j := Nat.div_add_mod ..
    simp only [wordTaken, getElem?_readBytes, inWord, if_true, Option.getD_some, address]

/-- R3: no word of the range carries the mark. -/
theorem not_marked_taken (o : CardOp) (c : Card) (clean : ∀ w ∈ c.marks, ∀ a, o.base ≤ a → a < o.base + o.len → a / 8 ≠ w) :
    ({ o with seen := ((wordsOf o.base o.len).map (wordTaken c)).reverse } : CardOp).marked = false := by
  refine List.any_eq_false.mpr fun x member => ?_
  obtain ⟨w, inWords, rfl⟩ := List.mem_map.mp (List.mem_reverse.mp member)
  obtain ⟨positive, low, high⟩ := mem_wordsOf.mp inWords
  have unmarked : w ∉ c.marks := fun marked => clean w marked (max o.base (8 * w)) (le_max_left ..) (by omega) (by omega)
  simpa [wordTaken] using unmarked

end Read

end Sys2Proof.Machine.Proofs
end

section
/-! What a chunk does when the data of its card read have come (R84, R85, R87): its turn, and how its member goes on. -/

namespace Sys2Proof.Machine.Proofs

open Laws

/-! ### The chunk that becomes HELD -/

section Held
variable {x : Slot} {c : ChunkCtx} {k : Nat} {part : Option (BitVec 32)}

/-- R82: a chunk whose read has ended. -/
def heldChunk (part : Option (BitVec 32)) (c : ChunkCtx) : ChunkCtx := { c with phase := .held, part }

/-- R82: the slot with chunk `k` HELD. -/
def heldSlot (x : Slot) (k : Nat) (part : Option (BitVec 32)) : Slot := x.changeChunk k (heldChunk part)

theorem heldSlot_rest : (heldSlot x k part).chunks.filter (fun d => decide (d.chunk ≠ k)) = x.chunks.filter fun d => decide (d.chunk ≠ k) := by
  have same : (fun d : ChunkCtx => decide (d.chunk ≠ k)) ∘ (fun d => if d.chunk = k then heldChunk part d else d)
      = fun d => decide (d.chunk ≠ k) := funext fun d => by
    simp only [Function.comp_apply]
    split <;> rfl
  refine (List.filter_map ..).trans ?_
  rw [same]
  refine (List.map_congr_left fun d member => ?_).trans (List.map_id _)
  rw [if_neg (by simpa using (List.mem_filter.mp member).2)]
  rfl

theorem heldSlot_others (others : ∀ d ∈ x.chunks, d.chunk ≠ k → d.phase ≠ .held) :
    ∀ d ∈ (heldSlot x k part).chunks, d.chunk ≠ k → d.phase ≠ .held := by
  intro d member other
  obtain ⟨e, inside, rfl⟩ := List.mem_map.mp member
  by_cases mine : e.chunk = k
  · rw [if_pos mine] at other
    exact absurd mine other
  · rw [if_neg mine]
    exact others e inside mine

/-- R88: how the chunk stood before its end makes no difference to the slot it leaves. -/
theorem doneSlot_heldSlot (m : MemberCtx) (r : SubRecord) : doneSlot (heldSlot x k part) m r k = doneSlot x m r k := by
  rw [doneSlot, heldSlot_rest]
  rfl

variable (found : x.chunk k = some c)
include found

theorem heldSlot_chunk : (heldSlot x k part).chunk k = some (heldChunk part c) := by
  have mine := chunk_number found
  have same : (fun d : ChunkCtx => decide (d.chunk = k)) ∘ (fun d => if d.chunk = k then heldChunk part d else d)
      = fun d => decide (d.chunk = k) := funext fun d => by
    simp only [Function.comp_apply]
    split <;> rfl
  refine (List.find?_map ..).trans ?_
  rw [same, show x.chunks.find? _ = some c from found, Option.map_some, if_pos mine]

theorem heldSlot_inTurn (turn : x.chunks.find? (fun c => decide (c.phase ≠ .writing)) = some c) :
    (heldSlot x k part).inTurn = some (heldChunk part c) :=
  inTurn_changed_self turn (chunk_number found) found fun h => by cases h

/-- R82: a lower chunk still reads. -/
theorem heldSlot_waits {s : State} {i : SNum} {d : ChunkCtx} (notWriting : c.phase ≠ .writing)
    (turn : x.chunks.find? (fun c => decide (c.phase ≠ .writing)) = some d) (reads : d.phase = .reading) (below : d.chunk < k) :
    Settles 1 (putSlot s i (heldSlot x k part)) [.turn i] (putSlot s i (heldSlot x k part)) := by
  refine settles_cons (w := .turn i) (takeTurn_idle fun e inTurn => ?_) (settles_nil _)
  have stays := inTurn_changed_other (f := heldChunk part) turn (Nat.ne_of_lt below) found notWriting
  obtain rfl : d = e := Option.some.inj (stays.symm.trans inTurn)
  rw [reads]
  decide

end Held

/-! ### The data of a read -/

section Data
variable {s : State} {i : SNum} {k : Nat} {c : ChunkCtx} {b : BNum} {bytes : List Byte}

/-- R84, R85: the data of a read in the chunk's buffer. -/
def loaded (s : State) (b : BNum) (bytes : List Byte) : State := s.withBuffer b fun x => { x with data := bytes ++ x.data.drop bytes.length }

theorem loaded_take : ((loaded s b bytes).buffer b).data.take bytes.length = bytes := by
  have entry : (loaded s b bytes).buffer b = { s.buffer b with data := bytes ++ (s.buffer b).data.drop bytes.length } := look_upd_same ..
  rw [entry]
  exact List.take_left ..

variable (found : (s.slot i).chunk k = some c) (takes : c.discard = false)
include found takes

theorem takeReadData_buffer (buffer : c.buffer = some b) :
    s.takeReadData i k bytes = (putSlot (loaded s b bytes) i (heldSlot (s.slot i) k none), [.turn i]) := by
  simp only [State.takeReadData, found, takes, buffer]
  rfl

theorem takeReadData_plain (buffer : c.buffer = none) :
    s.takeReadData i k bytes = (putSlot s i (heldSlot (s.slot i) k (some (crcPart bytes))), [.turn i]) := by
  simp only [State.takeReadData, found, takes, buffer]
  rfl

end Data

/-! ### The step of a card read's end -/

section Step
variable {s S : State} {o : CardOp} {i : SNum} {k : Nat}

/-- R2: with only reads in progress and no word marked, a read ends with the bytes of card memory. -/
theorem exec_readReturn (live : s.halted = false) (good : TablesGood s) (noScrub : s.card.scrub = none) (stands : s.card.find o.id = some o)
    (reads : ∀ o' ∈ s.card.ops, o'.write = none) (owner : o.owner = some (i, k)) (fresh : o.seen = []) (inSpace : o.base + o.len ≤ 2 ^ 32)
    (clean : ∀ w ∈ s.card.marks, ∀ a, o.base ≤ a → a < o.base + o.len → a / 8 ≠ w)
    (ended : (s.withCard fun c => c.drop o.id).endRecord o.id = S) :
    let bytes := (List.range o.len).map fun j => readByte s.card.mem (o.base + j)
    exec (.cardReadDataReturn o.id) s
      = .next (((S.takeReadData i k bytes).1.finish s.sharedFree (S.takeReadData i k bytes).2).endStop) := by
  have isRead : o.write = none := reads o (List.mem_of_find?_eq_some stands)
  have found : s.cardRead o.id = some o := by simp [State.cardRead, stands, isRead]
  have fits : o.inSpace = true := decide_eq_true inSpace
  let words := wordsOf o.base o.len
  have taken : s.readTaken o = s.withCardDraws (wordsTaken s.card o.id words, s.draws) := by
    unfold State.readTaken
    dsimp only
    rw [scrubOn_none noScrub, stands]
    exact congrArg s.withCardDraws (finish_reads isRead fresh reads fun w hw => touches_iff.mpr hw)
  have after : (s.readTaken o).endAccess o.id = S := by
    rw [taken, ← ended]
    exact congrArg (fun c => ({ s with card := c } : State).endRecord o.id) drop_wordsTaken
  have op : ((s.readTaken o).card.find o.id).getD o = { o with seen := (words.map (wordTaken s.card)).reverse } := by
    rw [taken, show (s.withCardDraws (wordsTaken s.card o.id words, s.draws)).card.find o.id = _ from find_wordsTaken stands, fresh, List.append_nil]
    rfl
  have goodS : TablesGood S := by
    obtain ⟨-, tables⟩ : Intact s.device S := by
      rw [← ended]
      exact intact_of_engine (s := s) (engine_endAccess o.id) ⟨rfl, good⟩
    exact tables
  have liveS : S.halted = false := by
    have device : S.device = s.device := by
      rw [← ended]
      exact congrArg (fun e => e.1) (engine_endAccess (s := s) o.id)
    rw [State.halted, device]
    exact live
  show (match s.cardRead o.id with | none => _ | some o => _) = _
  rw [found]
  dsimp only
  rw [fits, op, after, not_marked_taken o s.card clean, data_taken o s.card, endAtSlot_good (s := S) owner liveS goodS]
  rfl

end Step

end Sys2Proof.Machine.Proofs
end

section
/-! The end of a card read with data (R2, R3, R27, R84, R85, R87): O44. -/

namespace Sys2Proof.Machine.Proofs

open Laws

section Appends
variable {s t : State} {i : SNum} {x : Slot}

theorem appends_newRecord (n : VNum) (u : Bool) : Appends s (s.newRecord n u) := appends_react ..

theorem appends_adminComplete (o : Nat) (t : Tag) (a : AdminStatus) (d : Nat) : Appends s (s.adminComplete o t a d) := by
  unfold State.adminComplete
  dsimp only
  refine Appends.trans ?_ (appends_newRecord ..)
  exact List.prefix_append ..

theorem appends_postGroup (v : Verdict) : Appends s (s.postGroup i v) := by
  unfold State.postGroup
  dsimp only
  split
  · exact List.prefix_rfl
  · refine Appends.trans ?_ (appends_newRecord ..)
    exact List.prefix_append ..

end Appends

/-! ### The next chunk of a member -/

/-- R80, R81: all chunks have started, or no context is free. -/
theorem not_mayStart {x : Slot} {m : MemberCtx} (none : m.count ≤ m.next ∨ 4 ≤ x.chunks.length) : x.mayStart m = false := by
  rcases none with all | full
  · simp [Slot.mayStart, Nat.not_lt.mpr all]
  · simp [Slot.mayStart, Config.chunkContexts, Nat.not_lt.mpr full]

section OneStarts
variable {s : State} {i : SNum} {x : Slot} {m : MemberCtx} {r : SubRecord} {op : Op} {range : CardRange} {b : BNum} (ctx : x.ctx = some m)
  (live : x.live = true) (member : x.member = some r) (named : opOf r = some op) (more : m.next < m.count) (room : x.chunks.length < 4)
  (notHeld : ∀ d ∈ x.chunks, d.phase ≠ .held) (access : firstAccess m r op = (some range, .reading, none))
  (clear : FenceClear s (range.base + 2048 * m.next) (chunkLen r.length.toNat m.next))
include ctx live member named more room notHeld access clear

omit ctx member named notHeld access clear in
theorem mayStart_next : x.mayStart m = true := by
  simp only [Slot.mayStart, Bool.and_eq_true, decide_eq_true_iff]
  exact ⟨⟨live, room⟩, more⟩

omit ctx live member named more room access clear in
theorem withChunk_notHeld (buffer : Option BNum) : ∀ d ∈ (withChunk x m r .reading buffer 0).chunks, d.phase ≠ .held := by
  intro d inside
  rcases List.mem_append.mp inside with old | new
  · exact notHeld d old
  · rw [List.mem_singleton.mp new]
    simp [newChunk]

omit ctx live member named more room notHeld access clear in
theorem not_mayStart_after (buffer : Option BNum) (stop : x.chunks.length = 3 ∨ m.count = m.next + 1) :
    (withChunk x m r .reading buffer 0).mayStart { m with next := m.next + 1 } = false := by
  refine not_mayStart ?_
  rcases stop with full | last
  · exact .inr (by simp [withChunk, full])
  · exact .inl last.le

/-- R81, R87: one DIGEST chunk starts. -/
theorem settles_oneStarts (plain : op.needsBuffer = false) (stop : x.chunks.length = 3 ∨ m.count = m.next + 1) :
    Settles 4 (putSlot s i x) [.afterEnd i, .turn i]
      (putSlot (s.withAccess i m.next (range.base + 2048 * m.next) (chunkLen r.length.toNat m.next) none) i (withChunk x m r .reading none 0)) :=
  settles_goesOn ctx live (.inr more)
    (settles_chunk ctx member named (mayStart_next live more room) plain access clear fun _ =>
      startChunks_ends rfl member named (not_mayStart_after none stop))
    (withChunk_notHeld notHeld none)

/-- R81, R84: one COPY_OUT chunk takes the lowest free buffer and starts. -/
theorem settles_oneStartsBuffered (needs : op.needsBuffer = true) (eligible : MayTake s x.partition) (free : LowestFree s b)
    (stop : x.chunks.length = 3 ∨ m.count = m.next + 1 ∨ ¬MayTake (s.withBufferGranted b i x.partition) x.partition) :
    Settles 4 (putSlot s i x) [.afterEnd i, .turn i]
      (putSlot ((s.withBufferGranted b i x.partition).withAccess i m.next (range.base + 2048 * m.next) (chunkLen r.length.toNat m.next) none) i
        (withChunk x m r .reading (some b) 0)) := by
  refine settles_goesOn ctx live (.inr more)
    (settles_chunkBuffered ctx member named (mayStart_next live more room) needs eligible free access clear fun u same => ?_)
    (withChunk_notHeld notHeld (some b))
  rcases stop with full | last | refused
  · exact startChunks_ends rfl member named (not_mayStart_after (some b) (.inl full))
  · exact startChunks_ends rfl member named (not_mayStart_after (some b) (.inr last))
  · exact startChunks_refused (c := { m with next := m.next + 1 }) rfl member named needs (by rw [same]; exact refused) (by simp [withChunk])

end OneStarts

section Fences
variable {s t : State} {base len : Nat} {f : FNum}

/-- R22: the fence check looks at states and ranges alone. -/
def SameFences (s t : State) : Prop :=
  ∀ f, (t.fence f).st = (s.fence f).st ∧ (t.fence f).cardBase = (s.fence f).cardBase ∧ (t.fence f).length = (s.fence f).length

theorem SameFences.clear (same : SameFences s t) (clear : FenceClear s base len) : FenceClear t base len := fun f => by
  obtain ⟨st, cardBase, length⟩ := same f
  rw [st, cardBase, length]
  exact clear f

theorem SameFences.stops (same : SameFences s t) (stops : FenceStops s base len f) : FenceStops t base len f := by
  have entry (f : FNum) := same f
  unfold FenceStops at stops ⊢
  dsimp only at stops ⊢
  simp only [fun f => (entry f).1, fun f => (entry f).2.1, fun f => (entry f).2.2]
  exact stops

theorem sameFences_countedOff {id : Nat} {a : AccessRecord} : SameFences s (countedOff s id a) := fun f => by
  have entry : (countedOff s id a).fence f = if f ∈ a.countedBy ∧ (s.fence f).st = .setting then
      { s.fence f with outstanding := (s.fence f).outstanding.map (· - 1) } else s.fence f := look_mapTab ..
  rw [entry]
  split
  · exact ⟨rfl, rfl, rfl⟩
  · exact ⟨rfl, rfl, rfl⟩

end Fences

/-! ### The member that ends with its last chunk -/

section Answered
variable {s : State} {i : SNum} {x : Slot} {m : MemberCtx} {r r' : SubRecord} {k : Nat} {v : Verdict} {f : Slot → Slot}

theorem appends_withGroupAnswered {refs : List WNum} : Appends s (s.withGroupAnswered i refs f v) :=
  appends_postGroup (s := ({ s with windows := _ } : State).withSlot i _) v

theorem purse_withGroupAnswered {refs : List WNum} : purse (s.withGroupAnswered i refs f v) = purse s :=
  purse_postGroup ..

variable (slot : s.slot i = x) (live : x.live = true) (noneLeft : x.chunks.filter (fun d => decide (d.chunk ≠ k)) = [])
  (all : m.count ≤ m.next) (notBroken : (s.part x.partition).faultCause ≠ some .cqIndex)
  (kept : ∀ w ∈ m.refs, (s.window w).st ≠ .retiring ∨ m.refs.count w < (s.window w).refs)
  (leaves : endedSlot (doneSlot x m r k) { m with doneChunks := k + 1, doneAhead := [] } = { f x with ctx := none, chunks := [] })
include slot live noneLeft all notBroken kept leaves

/-- R90, R96: the last member of its group. -/
theorem settles_lastAnswered (last : x.members.length ≤ x.current + 1) : Settles 5 (putSlot s i (doneSlot x m r k)) [.afterEnd i, .turn i]
    (s.withGroupAnswered i m.refs f { status := .ok, detail := 0, failedMember := 0 }) := by
  have chain := settles_lastEnds (s := s) (i := i) (x := doneSlot x m r k) rfl live noneLeft all notBroken last
  rwa [show ({ m with doneChunks := k + 1, doneAhead := [] } : MemberCtx).refs = m.refs from rfl, answered_eq (x := x) leaves kept,
    show putSlot s i x = s from slot ▸ putSlot_self] at chain

/-- R77, R90, R91: the member before one that answers the group in the step of its start. -/
theorem settles_nextAnswered (noReads : NoRequests s i) (next : x.members[x.current + 1]? = some r')
    (answers : (s.startCheck x.partition r' = .error (v.status, v.detail) ∧ v.failedMember = x.current + 1)
      ∨ ((∃ t, s.startCheck x.partition r' = .ok t ∧ t.op = .mark)
        ∧ x.members.length = x.current + 2 ∧ v = { status := .ok, detail := 0, failedMember := 0 })) :
    Settles 8 (putSlot s i (doneSlot x m r k)) [.afterEnd i, .turn i]
      (s.withGroupAnswered i m.refs (fun x => { f x with current := x.current + 1 }) v) := by
  have chain := settles_nextAnswers (s := s) (i := i) (x := doneSlot x m r k) rfl live noneLeft all notBroken noReads kept next answers
  have leaves' : ({ endedSlot (doneSlot x m r k) { m with doneChunks := k + 1, doneAhead := [] } with current := x.current + 1 } : Slot)
      = { { f x with current := x.current + 1 } with ctx := none, chunks := [] } := by rw [leaves]
  have answered := answered_eq (s := s) (i := i) (x := x) (v := v) (f := fun x => { f x with current := x.current + 1 }) leaves' kept
  rw [show putSlot s i x = s from slot ▸ putSlot_self] at answered
  rw [← answered]
  exact chain

end Answered

/-- Settles O44: the read takes card memory as it stands, its fences count one less, and its chunk takes its turn. -/
theorem cardReadReturned : Obligations.CardReadReturned := by
  intro s o i k c a active good noScrub stands unique reads owner fresh inSpace clean record nodup found reading takes run p bytes gone
    counted load goes others
  have outsideHalted : s.device.st ≠ .halted := by rcases active with h | ⟨h, -⟩ <;> rw [h] <;> decide
  have number : c.chunk = k := chunk_number found
  let x := s.slot i
  have length : bytes.length = o.len := by simp [bytes]
  have loads (u : State) (b : BNum) : load u b = loaded u b bytes := by rw [loaded, length]
  have notWriting : c.phase ≠ .writing := by rw [reading]; decide
  have ends {S S1 T : State} {z : Slot} {n : Nat} (ended : (s.withCard fun c => c.drop o.id).endRecord o.id = S)
      (acts : S.takeReadData i k bytes = (putSlot S1 i z, [.turn i])) (ok : Intact s.device S → Intact s.device S1) (parity : z.parityOk = x.parityOk)
      (chain : Settles n (putSlot S1 i z) [.turn i] T) (small : n ≤ Config.innerBound) (grows : Appends s T) :
      run = .next (T.reevaluate s.sharedFree) := by
    have intact : Intact s.device (putSlot S1 i z) := by
      refine intact_putSlot (ok ?_) (parity.trans (good.1 i))
      rw [← ended]
      exact intact_of_engine (s := s) (engine_endAccess o.id) ⟨rfl, good⟩
    have writes : s.device.st ≠ .stopping ∨ T.link.store ≠ [] := active.imp (fun h => by simp [h]) fun h => grows.nonempty h.2
    have done : (T.reevaluate s.sharedFree).endStop = T.reevaluate s.sharedFree := by
      rcases writes with notStopping | some
      · obtain ⟨device, -⟩ : Intact s.device (T.reevaluate s.sharedFree) :=
          (intact_reevaluate _).mpr (intact_chain intact outsideHalted chain small)
        exact endStop_of_not_stopping _ (decide_eq_false (device ▸ notStopping))
      · exact endStop_of_store _ ((appends_reevaluate s.sharedFree).nonempty some)
    show exec _ s = _
    rw [exec_readReturn (decide_eq_false outsideHalted) good noScrub stands reads owner fresh inSpace clean ended, acts,
      finish_chain_writes intact outsideHalted chain small writes, done]
  have still {T : State} (h : run = .next (T.reevaluate s.sharedFree)) (share : purse T = purse s) : run = .next T := by
    rw [h, reevaluate_same _ _ (sharedFree_of_purse share)]
  have counts (left : others) : (s.withCard fun c => c.drop o.id).endRecord o.id = counted := endRecord_counted record nodup left
  refine ⟨fun d b buffer turn lower below => ⟨fun left => ?_, ?_⟩, ?_⟩
  · have chain := heldSlot_waits (s := loaded counted b bytes) (i := i) (part := none) found notWriting turn lower below
    have result := still (ends (counts left) (takeReadData_buffer (s := counted) found takes buffer) id rfl chain (by decide) List.prefix_rfl) rfl
    rw [result, loads]
    rfl
  · intro f j e one setting last tagged waits entry post
    let up := gone.withFence f fun y => { y with st := .active, outstanding := none, setTag := none }
    let S := (up.setDeferred j none).adminComplete 0x18 e.tag .ok 0
    have ended : (s.withCard fun c => c.drop o.id).endRecord o.id = S := by
      obtain ⟨d', at', op, -⟩ := deferredAt_some waits
      obtain rfl : e = d' := Option.some.inj (entry.symm.trans at')
      have counted : gone.countDownFence f = S := by
        have state : (gone.fence f).st = .setting := setting
        have left : (gone.fence f).outstanding = some 1 := last
        have asks : (gone.fence f).setTag.isSome = true := Option.isSome_iff_ne_none.mpr tagged
        unfold State.countDownFence
        dsimp only
        rw [if_pos state, left]
        dsimp only
        rw [if_pos le_rfl, if_pos asks, reportDeferred_post up .fenceSet f.val .ok j e waits entry post (decide_eq_false outsideHalted), op]
        rfl
      rw [endRecord_found (s.withCard fun c => c.drop o.id) o.id a record, one, State.countDownFences, State.countDownFences]
      exact counted
    have slot : S.slot i = x := slot_of_blocks (blocks_adminComplete ..) i
    have acts := takeReadData_buffer (s := S) (bytes := bytes) (by rw [slot]; exact found) takes buffer
    rw [slot] at acts
    have chain := heldSlot_waits (s := loaded S b bytes) (i := i) (part := none) found notWriting turn lower below
    have result := still (ends ended acts id rfl chain (by decide) (appends_adminComplete (s := up.setDeferred j none) ..))
      ((purse_of_ledger (ledger_adminComplete (up.setDeferred j none) ..)).trans rfl)
    rw [result, loads]
    show _ = Host.Outcome.next ((loaded S b bytes).withSlot i _)
    rw [withSlot_eq_putSlot, show (loaded S b bytes).slot i = x from slot]
    rfl
  · intro r m left chunkSize done ok rest size newChunks goesOn noneStarts oneStarts memberEnds
    have fences : SameFences s counted := sameFences_countedOff (s := s.withCard fun c => c.drop o.id)
    have actsBuffer {b : BNum} (buffer : c.buffer = some b) : counted.takeReadData i k bytes
        = (putSlot (loaded counted b bytes) i (heldSlot x k none), [.turn i]) := takeReadData_buffer (s := counted) found takes buffer
    have taken {b : BNum} : ((loaded counted b bytes).buffer b).data.take c.size = bytes := by
      rw [chunkSize, ← length]
      exact loaded_take
    have noneLeft (alone : x.chunks = [c]) : x.chunks.filter (fun d => decide (d.chunk ≠ k)) = [] := by simp [alone, number]
    have turnAlone (alone : x.chunks = [c]) : TurnOf s i c := by
      refine ⟨?_, fun d inside other => ?_⟩
      · rw [show (s.slot i).chunks = [c] from alone]
        simp [notWriting]
      · rw [show (s.slot i).chunks = [c] from alone, List.mem_singleton] at inside
        exact absurd (congrArg ChunkCtx.chunk inside) other
    have continues {u : State} (slot : u.slot i = x) (n : Nat) (crc : BitVec 32) (more : List ChunkCtx) : goesOn u n crc more
        = putSlot u i { done x with ctx := some { m with next := n, crc, doneChunks := k + 1, doneAhead := [] }, chunks := rest ++ more } := by
      show u.withSlot i _ = _
      rw [withSlot_eq_putSlot, slot]
    refine ⟨?_, fun b isCopyOut buffer absent => ?_, fun isDigest buffer => ?_⟩
    · intro b range isMove buffer primary base
      have named : opOf r = some .move := opOf_eq_some_iff.mpr (by rw [isMove]; rfl)
      have address : range.base + 2048 * (heldChunk none c).chunk = base := by rw [show (heldChunk none c).chunk = k from number]
      refine ⟨fun runs turn clear => ?_, fun f final nobody noReads noPlace stops => ?_⟩
      · obtain ⟨st, noVerdict, noAbort, ctx, member⟩ := runs
        obtain ⟨inTurn, others'⟩ := turn
        rw [number] at others'
        have writes := (takeTurn_writes (s := loaded counted b bytes) (i := i) (x := heldSlot x k none) ctx member named
          (heldSlot_inTurn found inTurn) (live_iff.mpr ⟨st, noVerdict, noAbort⟩) rfl (.inr rfl)).trans
          (writeChunk_issues (c := heldChunk none c) buffer primary
            (by rw [address, show (heldChunk none c).size = o.len from chunkSize]; exact fences.clear clear))
        rw [address, show (heldChunk none c).size = c.size from rfl, taken, chunkSize, show (heldChunk none c).chunk = k from number, heldSlot,
          changeChunk_changeChunk (heldChunk none) _ fun _ => rfl] at writes
        have chain := settles_cons (w := .turn i) writes (settles_cons (w := .turn i) (takeTurn_written others' fun _ => rfl) (settles_nil _))
        rw [still (ends (counts left) (actsBuffer buffer) id rfl chain (by decide) List.prefix_rfl) rfl, loads]
        rfl
      · obtain ⟨⟨st, noVerdict, noAbort, ctx, member⟩, -, alone, -, -, -, -, -, -, kept, notBroken⟩ := final
        have one : (heldSlot x k none).chunks = [heldChunk none c] := by simp [heldSlot, Slot.changeChunk, x, alone, number]
        have running : (heldSlot x k none).live = true := live_iff.mpr ⟨st, noVerdict, noAbort⟩
        have stopped := (takeTurn_writes (s := loaded counted b bytes) (i := i) (x := heldSlot x k none) ctx member named
          (heldSlot_inTurn found (turnAlone alone).1) running rfl (.inr rfl)).trans
          (writeChunk_fenced (c := heldChunk none c) buffer primary
            (by rw [address, show (heldChunk none c).size = o.len from chunkSize]; exact fences.stops stops))
        have chain := settles_cons (w := .turn i) stopped
          (settles_failBuffer (a := .fenced) (d := f.val) running ⟨noReads, noPlace⟩ one rfl buffer nobody notBroken)
        have refs : refsHeld (heldSlot x k none) = m.refs := by rw [refsHeld, show (heldSlot x k none).ctx = _ from ctx]; rfl
        let B := (loaded counted b bytes).withBufferBack b p
        have answered := withGroupAnswered_eq (s := B) (i := i) (x := x) (refs := m.refs) (f := id)
          (v := { status := .fenced, detail := f.val, failedMember := x.current })
          fun v hv => by rw [show B.window v = s.window v from congrArg (look · v) (show B.windows = s.windows from rfl)]; exact kept v hv
        have slot : B.slot i = x := congrArg (look · i) (show B.slots = s.slots from rfl)
        rw [show putSlot B i x = B from slot ▸ putSlot_self] at answered
        rw [refs] at chain
        have chain' : Settles 6 (putSlot (loaded counted b bytes) i (heldSlot x k none)) [.turn i]
            (B.withGroupAnswered i m.refs id { status := .fenced, detail := f.val, failedMember := x.current }) := by
          rw [← answered]
          exact chain
        have result := ends (T := B.withGroupAnswered i m.refs id { status := .fenced, detail := f.val, failedMember := x.current })
          (counts left) (actsBuffer buffer) id rfl chain' (by decide)
          (Appends.trans (t := B) List.prefix_rfl appends_withGroupAnswered)
        rw [result, loads]
    · intro places handed
      have named : opOf r = some .copyOut := opOf_eq_some_iff.mpr (by rw [isCopyOut]; rfl)
      have plain (member : x.member = some r) : x.op ≠ some .digest := by
        rw [show x.op = some .copyOut from (congrArg (Option.bind · opOf) member).trans named]
        decide
      let H := handedOver (loaded counted b bytes) r k b bytes p
      have sameHanded : handed = H := by
        show (State.withLink (load counted b) _).withBufferBack b p = H
        rw [loads]
        rfl
      have slot : H.slot i = x := congrArg (look · i) (show H.slots = s.slots from rfl)
      have window (w : WNum) : H.window w = s.window w := congrArg (look · w) (show H.windows = s.windows from rfl)
      have fault : (H.part p).faultCause = (s.part p).faultCause := handedOver_faultCause
      have hands {T : State} {n : Nat} (order : TurnInOrder s i r m c) (nobody : s.pool.waiting = []) (place : places < 64)
          (chain : Settles n (putSlot H i (doneSlot x m r k)) [.afterEnd i, .turn i] T) (small : n + 2 ≤ Config.innerBound) (grows : Appends H T) :
          run = .next (T.reevaluate s.sharedFree) := by
        obtain ⟨⟨st, noVerdict, noAbort, ctx, member⟩, ⟨inTurn, others'⟩, done', ahead, -⟩ := order
        rw [number] at others' done'
        refine ends (counts left) (actsBuffer buffer) id rfl ?_ small (Appends.trans (t := H) (List.prefix_append ..) grows)
        refine settles_handOver (s := loaded counted b bytes) (i := i) (x := heldSlot x k none) (b := b) ctx member
          (live_iff.mpr ⟨st, noVerdict, noAbort⟩) (heldSlot_chunk found) (heldSlot_inTurn found inTurn) rfl (heldSlot_others others') done' ahead
          named absent place buffer nobody ?_
        rw [doneSlot_heldSlot, show (heldChunk none c).size = c.size from rfl, taken]
        exact chain
      refine ⟨fun runs turn full => ?_, fun final nobody place => ?_, fun order nobody place => ⟨fun none => ?_, fun b' range primary one may free stop => ?_,
        fun r' v memberEnds' next => ?_⟩⟩
      · obtain ⟨st, noVerdict, noAbort, ctx, member⟩ := runs
        have waits := takeTurn_waitsForPlace (s := loaded counted b bytes) (i := i) (x := heldSlot x k none) ctx member named
          (heldSlot_inTurn found turn.1) (live_iff.mpr ⟨st, noVerdict, noAbort⟩) rfl rfl absent full
        rw [still (ends (counts left) (actsBuffer buffer) id rfl (settles_cons (w := .turn i) waits (settles_nil _)) (by decide)
          List.prefix_rfl) rfl, loads]
        rfl
      · obtain ⟨runs, last, alone, count, next, done', ahead, low, -, kept, notBroken⟩ := final
        obtain ⟨st, noVerdict, noAbort, ctx, member⟩ := id runs
        have leaves : endedSlot (doneSlot x m r k) { m with doneChunks := k + 1, doneAhead := [] } = { done x with ctx := none, chunks := [] } := by
          rw [endedSlot_done (noneLeft alone), if_neg (plain member)]
        have chain := settles_lastAnswered (s := H) (i := i) (m := m) slot (live_iff.mpr ⟨st, noVerdict, noAbort⟩) (noneLeft alone)
          (by rw [count, next]) (by rw [show (H.part x.partition).faultCause = _ from fault]; exact notBroken)
          (fun w hw => by rw [window]; exact kept w hw) leaves last.le
        rw [hands ⟨runs, turnAlone alone, done', ahead, low⟩ nobody place chain (by decide) appends_withGroupAnswered, sameHanded]
      · obtain ⟨st, noVerdict, noAbort, ctx, member⟩ := order.1
        obtain ⟨some, few⟩ := none
        have chain := settles_noneStarts (s := H) (i := i) (x := doneSlot x m r k) rfl (live_iff.mpr ⟨st, noVerdict, noAbort⟩) member named some
          (not_mayStart few) (doneSlot_notHeld (number ▸ order.2.1.2))
        rw [hands order nobody place chain (by decide) List.prefix_rfl, sameHanded]
        refine congrArg (fun t : State => Host.Outcome.next (t.reevaluate s.sharedFree)) ?_
        rw [continues slot, List.append_nil]
        rfl
      · obtain ⟨st, noVerdict, noAbort, ctx, member⟩ := order.1
        obtain ⟨more, room, clear⟩ := one
        let m' : MemberCtx := { m with doneChunks := k + 1, doneAhead := [] }
        have access : firstAccess m' r .copyOut = (some range, .reading, none) := congrArg (·, _, _) primary
        have chain := settles_oneStartsBuffered (s := H) (i := i) (x := doneSlot x m r k) (m := m') (b := b') rfl
          (live_iff.mpr ⟨st, noVerdict, noAbort⟩) member named more room (doneSlot_notHeld (number ▸ order.2.1.2)) access (fences.clear clear) rfl
          (sameHanded ▸ may) (sameHanded ▸ free) (by rw [← sameHanded]; exact stop)
        rw [hands order nobody place chain (by decide) List.prefix_rfl, sameHanded]
        refine congrArg (fun t : State => Host.Outcome.next (t.reevaluate s.sharedFree)) ?_
        rw [continues (u := H.withBufferGranted b' i p) slot]
        rfl
      · obtain ⟨noneLeft', all, notBroken, kept, noReads⟩ := memberEnds'
        obtain ⟨st, noVerdict, noAbort, ctx, member⟩ := order.1
        have leaves : endedSlot (doneSlot x m r k) { m with doneChunks := k + 1, doneAhead := [] } = { done x with ctx := none, chunks := [] } := by
          rw [endedSlot_done noneLeft', if_neg (plain member)]
        have chain := settles_nextAnswered (s := H) (i := i) (m := m) slot (live_iff.mpr ⟨st, noVerdict, noAbort⟩) noneLeft' all
          (by rw [show (H.part x.partition).faultCause = _ from fault]; exact notBroken) (fun w hw => by rw [window]; exact kept w hw) leaves
          ⟨noReads, absent⟩ next.1 next.2
        rw [hands order nobody place chain (by decide) appends_withGroupAnswered, sameHanded]
    · intro crc digested
      have named : opOf r = some .digest := opOf_eq_some_iff.mpr (by rw [isDigest]; rfl)
      let m' : MemberCtx := { m with crc := crc }
      have slot : counted.slot i = x := rfl
      have enters : crcEnter m.crc c.size (crcPart bytes) = crc := by
        rw [chunkSize, ← length]
        exact digestIsCrc.1 m.crc bytes
      have leaves (noneLeft : rest = []) (member : x.member = some r) :
          endedSlot (doneSlot x m' r k) { m' with doneChunks := k + 1, doneAhead := [] } = { digested x with ctx := none, chunks := [] } := by
        rw [endedSlot_done noneLeft, if_pos (show x.op = some .digest from (congrArg (Option.bind · opOf) member).trans named)]
      have digests {T : State} {n : Nat} (order : TurnInOrder s i r m c)
          (chain : Settles n (putSlot counted i (doneSlot x m' r k)) [.afterEnd i, .turn i] T) (small : n + 1 ≤ Config.innerBound)
          (grows : Appends counted T) (share : purse T = purse s) : run = .next T := by
        obtain ⟨⟨st, noVerdict, noAbort, ctx, member⟩, ⟨inTurn, others'⟩, done', ahead, -⟩ := order
        rw [number] at others' done'
        refine still (ends (counts left) (takeReadData_plain (s := counted) found takes buffer) id rfl ?_ small
          (Appends.trans (t := counted) List.prefix_rfl grows)) share
        refine settles_digest (s := counted) (i := i) (x := heldSlot x k (some (crcPart bytes))) ctx member
          (live_iff.mpr ⟨st, noVerdict, noAbort⟩) (heldSlot_chunk found) (heldSlot_inTurn found inTurn) rfl (heldSlot_others others') done' ahead
          named buffer ?_
        rw [doneSlot_heldSlot, show crcEnter m.crc (heldChunk (some (crcPart bytes)) c).size ((heldChunk (some (crcPart bytes)) c).part.getD 0) = crc from enters]
        exact chain
      refine ⟨fun final => ?_, fun order => ⟨fun none => ?_, fun range primary one stop => ?_, fun r' v memberEnds' noPlace next => ?_⟩⟩
      · obtain ⟨runs, last, alone, count, next, done', ahead, low, -, kept, notBroken⟩ := final
        obtain ⟨st, noVerdict, noAbort, ctx, member⟩ := id runs
        have chain := settles_lastAnswered (s := counted) (i := i) (m := m') slot (live_iff.mpr ⟨st, noVerdict, noAbort⟩) (noneLeft alone)
          (by rw [show m'.count = m.count from rfl, count]; exact next.ge) notBroken kept (leaves (noneLeft alone) member) last.le
        exact digests ⟨runs, turnAlone alone, done', ahead, low⟩ chain (by decide) appends_withGroupAnswered purse_withGroupAnswered
      · obtain ⟨st, noVerdict, noAbort, ctx, member⟩ := order.1
        obtain ⟨some, few⟩ := none
        have chain := settles_noneStarts (s := counted) (i := i) (x := doneSlot x m' r k) rfl (live_iff.mpr ⟨st, noVerdict, noAbort⟩) member named some
          (not_mayStart few) (doneSlot_notHeld (number ▸ order.2.1.2))
        rw [digests order chain (by decide) List.prefix_rfl rfl, continues slot, List.append_nil]
        rfl
      · obtain ⟨st, noVerdict, noAbort, ctx, member⟩ := order.1
        obtain ⟨more, room, clear⟩ := one
        let m2 : MemberCtx := { m' with doneChunks := k + 1, doneAhead := [] }
        have access : firstAccess m2 r .digest = (some range, .reading, none) := congrArg (·, _, _) primary
        have chain := settles_oneStarts (s := counted) (i := i) (x := doneSlot x m' r k) (m := m2) rfl
          (live_iff.mpr ⟨st, noVerdict, noAbort⟩) member named more room (doneSlot_notHeld (number ▸ order.2.1.2)) access (fences.clear clear) rfl stop
        rw [digests order chain (by decide) List.prefix_rfl rfl, continues slot]
        rfl
      · obtain ⟨noneLeft', all, notBroken, kept, noReads⟩ := memberEnds'
        obtain ⟨st, noVerdict, noAbort, ctx, member⟩ := order.1
        have chain := settles_nextAnswered (s := counted) (i := i) (m := m') slot (live_iff.mpr ⟨st, noVerdict, noAbort⟩) noneLeft' all
          notBroken kept (leaves noneLeft' member) ⟨noReads, noPlace⟩ next.1 next.2
        exact digests order chain (by decide) appends_withGroupAnswered purse_withGroupAnswered

end Sys2Proof.Machine.Proofs
end

section
/-! PARTITION_CLOSE (R39, R40, R12, R169): O22. -/

namespace Sys2Proof.Machine.Proofs

open Laws

section Close
variable {s : State} {n : TNum} {tag : Tag} {q : BitVec 8} {p : PNum}

theorem exec_partitionClose (ready : CommandReady s n) (hq : q.toNat = p.val) :
    exec (.partitionClose tag false q) s
      = .next (State.conclude (s.taken n).sharedFree 0x04 tag ((s.taken n).closePartition p tag)) := by
  obtain ⟨-, -, slots, windows, parts⟩ := id ready
  exact (returnCommand_ready ready _).trans (congrArg Host.Outcome.next (executePart_freed (fun s p => s.closePartition p tag) hq
    (closeReads_good (s := s.withTag n fun _ => .free) slots windows parts p)))

/-! ### What the command does -/

theorem closePartition_closed (h : (s.part p).st = .closed ∨ (s.part p).st = .closing) : s.closePartition p tag = s.refuse .state :=
  if_pos h

section Open
variable (opened : (s.part p).st ≠ .closed ∧ (s.part p).st ≠ .closing)
include opened

theorem closePartition_empty (empty : (s.part p).slotsHeld = 0) : s.closePartition p tag
    = ((s.reportDeferred .partitionQuiesce p.val .superseded).closeWindows p).accept [.endClosing p] := by
  unfold State.closePartition
  dsimp only
  rw [if_neg (by tauto), if_pos empty]

variable (holds : 0 < (s.part p).slotsHeld)
include holds

theorem closePartition_full (notQuiescing : (s.part p).st ≠ .quiescing) (full : ∀ i, look s.admin.deferred i ≠ none) :
    s.closePartition p tag = s.refuse .deferFull := by
  have none : s.deferredFree = none := by
    refine lowest_none.mpr fun i => ?_
    rw [Option.isNone_eq_false_iff, Option.isSome_iff_ne_none]
    exact full i
  unfold State.closePartition
  dsimp only
  rw [if_neg (by tauto), if_neg (Nat.ne_of_gt holds), if_neg notQuiescing, none]
  rfl

theorem closePartition_waits (notQuiescing : (s.part p).st ≠ .quiescing) {j : Fin 8} (free : s.deferredFree = some j) :
    s.closePartition p tag = (s.takeDeferred j .partitionClose tag p.val).enterClosing p tag := by
  unfold State.closePartition
  dsimp only
  rw [if_neg (by tauto), if_neg (Nat.ne_of_gt holds), if_neg notQuiescing, free]
  rfl

theorem closePartition_supersedes (quiescing : (s.part p).st = .quiescing) {j : Fin 8} {d : Deferred}
    (waits : s.deferredAt .partitionQuiesce p.val = some j) (entry : look s.admin.deferred j = some d) :
    s.closePartition p tag = (s.supersede j d tag p).enterClosing p tag := by
  unfold State.closePartition
  dsimp only
  rw [if_neg (by tauto), if_neg (Nat.ne_of_gt holds), if_pos quiescing, waits, Option.bind_some, entry]
  rfl

end Open

/-! ### A partition that enters CLOSING -/

/-- R12: a window after the close of partition `p`. -/
def ownerCloses (p : PNum) (w : Window) : Window :=
  if w.owner = some p ∧ w.st = .opened then
    (if w.refs = 0 then { w with st := .free, owner := none, refs := 0, closeTag := none } else { w with st := .retiring, closeTag := none })
  else w

theorem closeWindows_eq : s.closeWindows p = { s with windows := mapTab (fun _ w => ownerCloses p w) s.windows } := by
  have each (w : Window) : (if w.owner = some p then w.ownerClosed else w) = ownerCloses p w := by
    unfold ownerCloses Window.ownerClosed
    by_cases owned : w.owner = some p <;> by_cases opened : w.st = .opened <;> simp [owned, opened, Window.freed]
  exact congrArg (fun f => { s with windows := mapTab f s.windows }) (funext fun _ => funext each)

theorem ownerCloses_notOpened (w : Window) (owned : (ownerCloses p w).owner = some p) : (ownerCloses p w).st ≠ .opened := by
  unfold ownerCloses at owned ⊢
  by_cases acts : w.owner = some p ∧ w.st = .opened
  · rw [if_pos acts] at owned ⊢
    split
    · simp
    · simp
  · rw [if_neg acts] at owned ⊢
    exact fun opened => acts ⟨owned, opened⟩

theorem ownerCloses_locked {w : Window} (locked : w.st = .locked) : ownerCloses p w = w :=
  if_neg fun h => by rw [locked] at h; cases h.2

/-- R39: the state in which the slots of the partition take their aborts. -/
def closingBegun (s : State) (p : PNum) (tag : Tag) : State :=
  (((s.withPart p fun y => { y with st := .closing, pendingTag := some tag }).closeWindows p).abortRound .partitionClose (s.slotsOf p)).1

theorem requestAbort_windows (d : AbortDetail) (l : List SNum) : (s.requestAbort d l).windows = s.windows := by
  induction l generalizing s with
  | nil => rfl
  | cons i l ih => exact ih

theorem closingBegun_window (w : WNum) : (closingBegun s p tag).window w = ownerCloses p (s.window w) := by
  have windows : (closingBegun s p tag).windows = mapTab (fun _ w => ownerCloses p w) s.windows := by
    refine (requestAbort_windows ..).trans ?_
    rw [closeWindows_eq]
    rfl
  rw [State.window, windows, look_mapTab]
  rfl

theorem closingBegun_st : ((closingBegun s p tag).part p).st = .closing := by
  have standing := congrFun (congrArg (fun b => b.2.1)
    (berth_abortRound ((s.withPart p fun y => { y with st := .closing, pendingTag := some tag }).closeWindows p) .partitionClose (s.slotsOf p))) p
  refine (congrArg Prod.fst standing).trans ?_
  exact congrArg Partition.st (withPart_part_same s p fun y => { y with st := .closing, pendingTag := some tag })

theorem intact_closingBegun {d : Device} : Intact d (closingBegun s p tag) ↔ Intact d s := by
  rw [closingBegun, intact_abortRound, intact_closeWindows]
  exact intact_withPart p _ fun _ => rfl

theorem purse_closingBegun (notClosed : (s.part p).st ≠ .closed) : purse (closingBegun s p tag) = purse s := by
  refine (purse_abortRound ..).trans (purse_withPart s p (fun y => { y with st := .closing, pendingTag := some tag }) ?_)
  rw [deficit_eq, deficit_eq, if_neg notClosed]
  rfl

/-- R39, R12: the partition closes in the command's step or after it, and none of its windows is OPEN. -/
theorem enterClosing_leaves {before : Nat} {t : State} (concluded : t = State.conclude before 0x04 tag (s.enterClosing p tag)) :
    ((t.part p).st = .closing ∨ (t.part p).st = .closed)
      ∧ (∀ w, (t.window w).owner = some p → (t.window w).st ≠ .opened)
      ∧ ∀ w, (s.window w).st = .locked → (t.window w).st = .locked := by
  let A := closingBegun s p tag
  obtain ⟨ws, settled⟩ : ∃ ws, t = (State.settle Config.innerBound A ws).reevaluate before := ⟨_, concluded⟩
  have onward : Onward (fun _ => True) A t := by
    rw [settled]
    exact (onward_settle A _ ws (fun _ _ => trivial) fun _ _ => trivial).before (berth_reevaluate ..)
  have steady : Steady A t := by
    rw [settled]
    exact steady_settled A before _ ws
  refine ⟨?_, fun w owned opened => ?_, fun w locked => ?_⟩
  · rcases (onward.parts p).st with same | ⟨⟨-, notClosing, -⟩, -⟩ | ⟨-, closed⟩
    · exact .inl (same.trans closingBegun_st)
    · exact absurd closingBegun_st notClosing
    · exact .inr closed
  · have was := onward.windows w opened
    obtain ⟨-, owner, -⟩ := (steady.windows w).record (by rw [opened]; decide)
    rw [closingBegun_window] at was owner
    exact ownerCloses_notOpened _ (owner.symm.trans owned) was
  · refine (steady.windows w).locked ?_
    rw [closingBegun_window, ownerCloses_locked locked]
    exact locked

theorem supersede_windows (j : Fin 8) (d : Deferred) : (s.supersede j d tag p).windows = s.windows := by
  unfold State.supersede
  cases d.post
  · rfl
  · exact windows_of_blocks (blocks_adminComplete ..)

/-- R40: the closing of a partition that no command waits for ends at once where nobody waits for a buffer. -/
theorem settles_endClosingAlone (nobody : s.pool.waiting = []) (noClose : s.deferredAt .partitionClose p.val = none) :
    Settles 3 s [.endClosing p] (s.withPart p fun y => { y with st := .closed, pendingTag := none }) := by
  let c := s.withPart p fun y => { y with st := .closed, pendingTag := none }
  have pass : c.doWork .pass = (c, []) := by
    have stops := arbiterPass_empty 128 c nobody
    simp only [State.doWork, stops]
    rfl
  have answers : c.doWork (.answerClose p) = (c, []) := by
    have absent : c.deferredAt .partitionClose p.val = none := noClose
    simp only [State.doWork, State.answerClose, absent]
  exact settles_cons (w := .endClosing p) (more := [.pass, .answerClose p]) rfl (settles_cons pass (settles_cons answers (settles_nil _)))

end Close

/-- Settles O22: each answer of the command in turn; the closing that waits is what the inner events leave of CLOSING. -/
theorem partitionClosed : Obligations.PartitionClosed := by
  intro s n tag q ready u run
  have live := taken_not_halted ready
  refine ⟨fun out => (returnCommand_ready ready _).trans (congrArg Host.Outcome.next (executePart_outOfRange out)), fun p hq => ?_⟩
  intro y taken closed
  have concluded : run = .next (State.conclude u.sharedFree 0x04 tag (u.closePartition p tag)) := exec_partitionClose ready hq
  have notClosing (open' : y.st = .opened ∨ y.st = .quiesced ∨ y.st = .faulted) :
      ((u.part p).st ≠ .closed ∧ (u.part p).st ≠ .closing) ∧ (u.part p).st ≠ .quiescing := by
    rcases open' with h | h | h <;> rw [show (u.part p).st = _ from h] <;> exact ⟨⟨by decide, by decide⟩, by decide⟩
  have whileQuiescing (quiescing : y.st = .quiescing) : (u.part p).st ≠ .closed ∧ (u.part p).st ≠ .closing := by
    rw [show (u.part p).st = _ from quiescing]
    exact ⟨by decide, by decide⟩
  refine ⟨fun shut => ?_, fun open' holds full => ?_, fun open' empty nobody noClose noQuiesce => ?_, fun holds waits => ?_,
    fun j d last quiescing holds waits entry post mine st alone => ?_⟩
  · rw [concluded, closePartition_closed (s := u) shut, conclude_refuse _ _ _ _ _ live rfl]
  · obtain ⟨opened, notQuiescing⟩ := notClosing open'
    rw [concluded, closePartition_full (s := u) opened holds notQuiescing full, conclude_refuse _ _ _ _ _ live rfl]
  · obtain ⟨opened, -⟩ := notClosing open'
    have intact : Intact s.device (u.closeWindows p) := (intact_closeWindows p).mpr ⟨rfl, ready.2.2⟩
    have chain := settles_endClosingAlone (s := u.closeWindows p) nobody noClose
    rw [concluded, closePartition_empty (s := u) opened empty, reportDeferred_absent u _ _ _ noQuiesce,
      conclude_chain intact (of_decide_eq_false live) chain (by decide), closeWindows_eq]
    rfl
  · have leaves {V : State} (acts : u.closePartition p tag = V.enterClosing p tag) (windows : V.windows = s.windows) :
        ∃ t, run = .next t ∧ ((t.part p).st = .closing ∨ (t.part p).st = .closed)
          ∧ (∀ w, (t.window w).owner = some p → (t.window w).st ≠ .opened)
          ∧ (∀ w, (s.window w).st = .locked → (t.window w).st = .locked) := by
      obtain ⟨st, none, locked⟩ := enterClosing_leaves (s := V) (before := u.sharedFree) (tag := tag) (p := p) rfl
      refine ⟨_, concluded.trans (by rw [acts]), st, none, fun w was => locked w ?_⟩
      rw [State.window, windows]
      exact was
    rcases waits with ⟨open', j, free⟩ | ⟨quiescing, pending⟩
    · obtain ⟨opened, notQuiescing⟩ := notClosing open'
      cases found : u.deferredFree with
      | none => exact absurd (lowest_none.mp found j) (by simp [show look u.admin.deferred j = none from free])
      | some j => exact leaves (closePartition_waits (s := u) opened holds notQuiescing found) rfl
    · obtain ⟨j, waits⟩ := Option.ne_none_iff_exists'.mp pending
      obtain ⟨d, entry, -, -⟩ := deferredAt_some waits
      exact leaves (closePartition_supersedes (s := u) (whileQuiescing quiescing) holds quiescing waits entry)
        ((supersede_windows ..).trans rfl)
  · intro answered closing
    let V := u.supersede j d tag p
    let A := closingBegun V p tag
    obtain ⟨d', at', op, -⟩ := deferredAt_some waits
    obtain rfl : d = d' := Option.some.inj (entry.symm.trans at')
    have superseded : V = answered := by
      show (if d.post = true then _ else _ : State).setDeferred j _ = _
      rw [if_pos post, op]
      rfl
    have answeredSlot (k : SNum) : V.slot k = s.slot k := by
      rw [superseded]
      exact slot_of_blocks (blocks_adminComplete ..) k
    have answeredPart : V.part p = s.part p := by
      rw [superseded]
      exact part_of_blocks (blocks_adminComplete ..) p
    have only : V.slotsOf p = [last] := by
      refine slotsOf_eq_singleton ?_ (by rw [answeredSlot]; exact mine) fun k other occupied => ?_
      · rw [answeredSlot]
        rcases st with h | h <;> rw [h] <;> decide
      · rw [answeredSlot] at occupied ⊢
        exact alone k other occupied
    have begun : A = (closing.withSlot last fun x => { x with abort := some (x.abort.getD .partitionClose) }).withPool fun q =>
        { q with waiting := q.waiting.filter fun x => decide (x.1 ≠ last) } := by
      show closingBegun V p tag = _
      rw [closingBegun, only, closeWindows_eq, superseded]
      rfl
    have effect : V.enterClosing p tag = (A, [.abort last], .deferred) := by
      show (A, _, _) = _
      rw [only]
      rfl
    have slot : A.slot last = { s.slot last with abort := some ((s.slot last).abort.getD .partitionClose) } := by
      rw [begun]
      refine (withSlot_slot_same closing last _).trans ?_
      rw [show closing.slot last = answered.slot last from rfl, ← superseded, answeredSlot]
    have stays : A.doWork (.abort last) = (A, []) := by
      have still : (A.slot last).st = .draining ∨ (A.slot last).st = .posting := by rw [slot]; exact st
      rcases still with h | h <;> simp only [State.doWork, State.takeAbort, h]
    have intact : Intact s.device A := by
      refine intact_closingBegun.mpr ?_
      rw [superseded]
      exact (intact_adminComplete (s := u) ..).mpr ⟨rfl, ready.2.2⟩
    have share : purse A = purse s := by
      refine (purse_closingBegun (by rw [answeredPart, show (s.part p).st = _ from quiescing]; decide)).trans ?_
      rw [superseded]
      exact purse_of_ledger (ledger_adminComplete u ..)
    rw [concluded, closePartition_supersedes (s := u) (whileQuiescing quiescing) holds quiescing waits entry, show u.supersede j d tag p = V from rfl,
      effect, ← begun]
    refine congrArg Host.Outcome.next ?_
    show (State.settle Config.innerBound A [.abort last]).reevaluate u.sharedFree = A
    rw [settle_chain intact (of_decide_eq_false live) (settles_cons stays (settles_nil _)) (by decide)]
    exact reevaluate_same _ _ (sharedFree_of_purse share)

end Sys2Proof.Machine.Proofs
end

section
/-! How a stop can end (R191, R31): no command but a reset and the end of a stop enters READY, and the end of a stop waits for the fence
entries that are SETTING. -/

namespace Sys2Proof.Machine.Proofs

open Laws

/-! ### The state of the device -/

/-- The state of the device (R189). -/
def mode (s : State) : DeviceState := s.device.st

section Mode
variable {s t : State}

theorem mode_of_outer (same : outer t = outer s) : mode t = mode s := congrArg (fun x => x.1.st) same

theorem mode_of_blocks (same : blocks t = blocks s) : mode t = mode s := congrArg Device.st (device_of_blocks same)

variable (s)

@[simp] theorem mode_rejectNotify : mode s.rejectNotify = mode s := (rfl)
@[simp] theorem mode_commandRead : mode s.commandRead = mode s := (rfl)
@[simp] theorem mode_discardAnswers : mode s.discardAnswers = mode s := (rfl)
@[simp] theorem mode_withSlot (i : SNum) (f : Slot → Slot) : mode (s.withSlot i f) = mode s := (rfl)
@[simp] theorem mode_withPart (p : PNum) (f : Partition → Partition) : mode (s.withPart p f) = mode s := (rfl)
@[simp] theorem mode_withWindow (w : WNum) (f : Window → Window) : mode (s.withWindow w f) = mode s := (rfl)
@[simp] theorem mode_withFence (n : FNum) (f : Fence → Fence) : mode (s.withFence n f) = mode s := (rfl)
@[simp] theorem mode_withFences (f : FenceUnit → FenceUnit) : mode (s.withFences f) = mode s := (rfl)
@[simp] theorem mode_withBuffer (b : BNum) (f : Buffer → Buffer) : mode (s.withBuffer b f) = mode s := (rfl)
@[simp] theorem mode_withPool (f : Pool → Pool) : mode (s.withPool f) = mode s := (rfl)
@[simp] theorem mode_withVector (v : VNum) (f : MsgVector → MsgVector) : mode (s.withVector v f) = mode s := (rfl)
@[simp] theorem mode_withAdmin (f : Admin → Admin) : mode (s.withAdmin f) = mode s := (rfl)
@[simp] theorem mode_withLink (f : Link → Link) : mode (s.withLink f) = mode s := (rfl)
@[simp] theorem mode_withEvents (f : EventRing → EventRing) : mode (s.withEvents f) = mode s := (rfl)
@[simp] theorem mode_withTag (n : TNum) (f : TagState → TagState) : mode (s.withTag n f) = mode s := (rfl)
@[simp] theorem mode_withAssembling (p : PNum) (a : Option Assembling) : mode (s.withAssembling p a) = mode s := (rfl)
@[simp] theorem mode_setDeferred (i : Fin 8) (d : Option Deferred) : mode (s.setDeferred i d) = mode s := (rfl)
@[simp] theorem mode_takeDeferred (i : Fin 8) (o : DeferOp) (tag : Tag) (n : Nat) : mode (s.takeDeferred i o tag n) = mode s := (rfl)
@[simp] theorem mode_askRead (r : Requester) (a : HostAddr) (n : Nat) : mode (s.askRead r a n) = mode s := (rfl)
@[simp] theorem mode_closeWindows (p : PNum) : mode (s.closeWindows p) = mode s := (rfl)
@[simp] theorem mode_postWrite (w : PostedWrite) : mode (s.postWrite w) = mode s := (rfl)
@[simp] theorem mode_enterHalted (c : HaltCause) : mode (s.enterHalted c) = .halted := (rfl)
@[simp] theorem mode_elapse (n : Nat) : mode (s.elapse n) = mode s := mode_of_outer (outer_elapse ..)
@[simp] theorem mode_react (v : VNum) (r : Reaction) : mode (s.react v r) = mode s := mode_of_outer (outer_react ..)
@[simp] theorem mode_consumeWrite (v : VNum) : mode (s.consumeWrite v) = mode s := mode_react ..
@[simp] theorem mode_handOver (e : Event) : mode (s.handOver e) = mode s := mode_of_outer (outer_handOver ..)
@[simp] theorem mode_writeLost : mode s.writeLost = mode s := mode_of_outer (outer_writeLost s)
@[simp] theorem mode_adminComplete (o : Nat) (tag : Tag) (a : AdminStatus) (d : Nat) : mode (s.adminComplete o tag a d) = mode s :=
  mode_of_outer (outer_adminComplete ..)
@[simp] theorem mode_reportDeferred (o : DeferOp) (n : Nat) (a : AdminStatus) : mode (s.reportDeferred o n a) = mode s :=
  mode_of_outer (outer_reportDeferred ..)
@[simp] theorem mode_evalWatermark : mode s.evalWatermark = mode s := mode_of_outer (outer_evalWatermark s)
@[simp] theorem mode_reevaluate (n : Nat) : mode (s.reevaluate n) = mode s := mode_of_outer (outer_reevaluate ..)
@[simp] theorem mode_endChunk (i : SNum) (k : Nat) (b : Bool) : mode (s.endChunk i k b).1 = mode s := mode_of_outer (outer_endChunk ..)
@[simp] theorem mode_abortRound (d : AbortDetail) (l : List SNum) : mode (s.abortRound d l).1 = mode s :=
  mode_of_outer (outer_abortRound ..)
@[simp] theorem mode_setEventRing (n : Nat) (b : HostAddr) : mode (s.setEventRing n b) = mode s := mode_of_outer (outer_setEventRing ..)

/-! ### What commands and requests do -/

@[simp] theorem mode_eventHead (n : Nat) : mode (s.eventHead n) = mode s := by
  unfold State.eventHead
  dsimp only
  split_ifs <;> simp

@[simp] theorem mode_channelFault (c : ChannelFault) : mode (s.channelFault c) = mode s := by
  unfold State.channelFault
  split <;> simp

@[simp] theorem mode_takeAdminTail (n : Nat) : mode (s.takeAdminTail n) = mode s := by
  unfold State.takeAdminTail
  split <;> simp

@[simp] theorem mode_takeAdminHead (n : Nat) : mode (s.takeAdminHead n) = mode s := by
  unfold State.takeAdminHead
  split <;> simp

@[simp] theorem mode_readRecord (p : PNum) (i : SNum) (n : Nat) : mode (s.readRecord p i n) = mode s := (rfl)

@[simp] theorem mode_resumeAssembly (p : PNum) : mode (s.resumeAssembly p) = mode s := by
  unfold State.resumeAssembly
  dsimp only
  split
  · split <;> simp
  · rfl

@[simp] theorem mode_takeSqTail (p : PNum) (n : Nat) : mode (s.takeSqTail p n).1 = mode s := by
  unfold State.takeSqTail
  dsimp only
  split
  · simp
  all_goals split_ifs <;> simp

@[simp] theorem mode_takeCqHead (p : PNum) (n : Nat) : mode (s.takeCqHead p n).1 = mode s := by
  unfold State.takeCqHead
  dsimp only
  split
  · simp
  all_goals split_ifs <;> simp

@[simp] theorem mode_serve (p : PNum) (i : SNum) : mode (s.serve p i) = mode s := (rfl)

@[simp] theorem mode_appendRecord (p : PNum) (i : SNum) (r : SubRecord) : mode (s.appendRecord p i r) = mode s := (rfl)

@[simp] theorem mode_recordReturn (p : PNum) (i : SNum) (a : Assembling) (r : SubRecord) :
    mode (s.recordReturn p i a r).1 = mode s := by
  have waits (u : State) : mode (u.enterWaitOrder p i).1 = mode u := by
    unfold State.enterWaitOrder
    dsimp only
    split <;> rfl
  unfold State.recordReturn
  dsimp only
  split_ifs <;> simp [waits]

@[simp] theorem mode_copyInReturn (i : SNum) (k place : Nat) (bytes : List Byte) :
    mode (s.copyInReturn i k place bytes).1 = mode s := by
  unfold State.copyInReturn
  dsimp only
  split
  · rfl
  next c _ => cases c.buffer <;> split_ifs <;> simp

@[simp] theorem mode_copyInFailure (i : SNum) (k d : Nat) : mode (s.copyInFailure i k d).1 = mode s := by
  unfold State.copyInFailure
  dsimp only
  split
  · rfl
  · split_ifs <;> simp

@[simp] theorem mode_takeReadData (i : SNum) (k : Nat) (bytes : List Byte) : mode (s.takeReadData i k bytes).1 = mode s := by
  unfold State.takeReadData
  dsimp only
  split
  · rfl
  next c _ => cases c.buffer <;> split_ifs <;> simp

@[simp] theorem mode_takeEccError (i : SNum) (k : Nat) : mode (s.takeEccError i k).1 = mode s := by
  unfold State.takeEccError
  split
  · rfl
  · split_ifs <;> simp

@[simp] theorem mode_endAccess (id : Nat) : mode (s.endAccess id) = mode s := by
  have counted (l : List FNum) (u : State) : mode (u.countDownFences l) = mode u := by
    induction l generalizing u with
    | nil => rfl
    | cons f l ih =>
      refine (ih _).trans ?_
      unfold State.countDownFence
      dsimp only
      split
      · split
        · split_ifs <;> simp
        · rfl
      · rfl
  unfold State.endAccess State.endRecord
  split
  · rfl
  · exact counted _ _

@[simp] theorem mode_scrubOn : mode s.scrubOn = mode s := congrArg Prod.fst (frozen_scrubOn s)

@[simp] theorem mode_issueFirst (w : PostedWrite) : mode (s.issueFirst w).1 = mode s := by
  unfold State.issueFirst State.writeIssued
  dsimp only
  split
  · split
    · rfl
    · split <;> rfl
    all_goals rfl
  · rfl

@[simp] theorem mode_errorPath (i : SNum) (v : Verdict) (c : ErrorClass) (tag : Tag) : mode (s.errorPath i v c tag).1 = mode s := by
  unfold State.errorPath
  dsimp only
  split <;> simp

/-! ### The effects of the administrative commands -/

theorem mode_openPartition (p : PNum) (a b c d e : Nat) (x y : HostAddr) : mode (s.openPartition p a b c d e x y).1 = mode s := by
  unfold State.openPartition
  split_ifs
  all_goals rfl

theorem mode_quiescePartition (p : PNum) (tag : Tag) : mode (s.quiescePartition p tag).1 = mode s := by
  unfold State.quiescePartition
  split
  · split
    · rfl
    · split <;> rfl
  all_goals rfl

theorem mode_resumePartition (p : PNum) : mode (s.resumePartition p).1 = mode s := by
  unfold State.resumePartition
  split
  · rfl
  · exact mode_reportDeferred ..
  all_goals rfl

theorem mode_closePartition (p : PNum) (tag : Tag) : mode (s.closePartition p tag).1 = mode s := by
  have entered {u : State} (same : mode u = mode s) : mode (u.enterClosing p tag).1 = mode s :=
    (mode_abortRound ..).trans same
  unfold State.closePartition
  dsimp only
  split_ifs
  · rfl
  · exact mode_reportDeferred ..
  all_goals
    split
    · exact entered (mode_of_blocks (supersede_blocks ..))
    · split
      · rfl
      · exact entered rfl

theorem mode_reportCounters (p : PNum) (b : Bool) (a : HostAddr) : mode (s.reportCounters p b a).1 = mode s := by
  unfold State.reportCounters
  dsimp only
  split <;> rfl

theorem mode_setDisposition (p : PNum) (c : ErrorClass) (d : Disposition) : mode (s.setDisposition p c d).1 = mode s := by
  unfold State.setDisposition
  split <;> rfl

theorem mode_openWindow (w : WNum) (p : PNum) (base length : Nat) (a : Access) :
    mode (s.openWindow w p base length a).1 = mode s := by
  unfold State.openWindow
  split_ifs
  · rfl
  · rfl
  · rfl
  · split <;> rfl

theorem mode_lockWindow (w : WNum) : mode (s.lockWindow w).1 = mode s := by
  unfold State.lockWindow
  split <;> rfl

theorem mode_closeWindow (w : WNum) (tag : Tag) : mode (s.closeWindow w tag).1 = mode s := by
  unfold State.closeWindow
  split
  case h_4 =>
    split
    · rfl
    · split <;> rfl
  all_goals rfl

theorem mode_setFence (f : FNum) (base length : Nat) (tag : Tag) : mode (s.setFence f base length tag).1 = mode s := by
  unfold State.setFence
  split_ifs
  · rfl
  · rfl
  · rfl
  · split <;> rfl

theorem mode_clearFence (f : FNum) : mode (s.clearFence f).1 = mode s := by
  unfold State.clearFence
  split_ifs
  all_goals rfl

theorem mode_setPool (p : PNum) (a b : Nat) : mode (s.setPool p a b).1 = mode s := by
  unfold State.setPool
  dsimp only
  split_ifs
  all_goals rfl

end Mode

/-! ### A device that is not READY -/

section Underway
variable {s : State} (underway : mode s ≠ .ready)
include underway

/-- R191: no inner event enters READY. -/
theorem underway_settled (before n : Nat) (ws : List Work) : mode ((State.settle n s ws).reevaluate before) ≠ .ready := by
  rcases (steady_settled s before n ws).st with same | ⟨-, halted⟩
  · exact fun ready => underway (same.symm.trans ready)
  · exact fun ready => by cases halted.symm.trans ready

theorem underway_conclude {e : Effect} (kept : mode e.1 = mode s) (before o : Nat) (tag : Tag) :
    mode (State.conclude before o tag e) ≠ .ready := by
  have settled := underway_settled (kept ▸ underway) before Config.innerBound e.2.1
  unfold State.conclude
  dsimp only
  split
  · exact settled
  · split
    · exact settled
    · rwa [mode_adminComplete]

theorem underway_badParam (o : Nat) (tag : Tag) : mode (s.badParam o tag) ≠ .ready := by
  rwa [State.badParam, mode_adminComplete, mode_commandRead]

theorem underway_execute (o : Nat) (tag : Tag) (valid : Bool) (reads : State → Option HaltCause) (effect : State → Effect)
    (kept : ∀ u, mode (effect u).1 = mode u) : mode (s.execute o tag valid reads effect) ≠ .ready := by
  unfold State.execute
  split
  · exact underway_badParam underway _ _
  · split
    · simp
    · exact underway_conclude (s := s.commandRead) underway (kept _) _ _ _

theorem underway_executePart (o : Nat) (tag : Tag) (valid : Bool) (n : BitVec 8) (reads : State → PNum → Option HaltCause)
    (effect : State → PNum → Effect) (kept : ∀ u p, mode (effect u p).1 = mode u) :
    mode (s.executePart o tag valid n reads effect) ≠ .ready := by
  unfold State.executePart
  split
  · exact underway_badParam underway _ _
  · exact underway_execute underway _ _ _ _ _ fun u => kept u _

theorem underway_executeWindow (o : Nat) (tag : Tag) (rsv : Bool) (n : BitVec 8) (effect : State → WNum → Effect)
    (kept : ∀ u w, mode (effect u w).1 = mode u) : mode (s.executeWindow o tag rsv n effect) ≠ .ready := by
  unfold State.executeWindow
  split
  · exact underway_badParam underway _ _
  · exact underway_execute underway _ _ _ _ _ fun u => kept u _

theorem underway_executeFence (o : Nat) (tag : Tag) (valid : Bool) (n : BitVec 8) (effect : State → FNum → Effect)
    (kept : ∀ u f, mode (effect u f).1 = mode u) : mode (s.executeFence o tag valid n effect) ≠ .ready := by
  unfold State.executeFence
  split
  · exact underway_badParam underway _ _
  · exact underway_execute underway _ _ _ _ _ fun u => kept u _

/-- R164: no administrative command enters READY. -/
theorem underway_runCommand (c : Instr) : mode (s.runCommand c) ≠ .ready := by
  cases c with
  | partitionOpen => exact underway_executePart underway _ _ _ _ _ _ fun u p => mode_openPartition u p ..
  | partitionQuiesce => exact underway_executePart underway _ _ _ _ _ _ fun u p => mode_quiescePartition u p _
  | partitionResume => exact underway_executePart underway _ _ _ _ _ _ fun u p => mode_resumePartition u p
  | partitionClose => exact underway_executePart underway _ _ _ _ _ _ fun u p => mode_closePartition u p _
  | reportCounters => exact underway_executePart underway _ _ _ _ _ _ fun u p => mode_reportCounters u p ..
  | dispositionSet tag rsv p c d =>
    change mode (s.runDispositionSet ..) ≠ _
    unfold State.runDispositionSet
    split
    · exact underway_executePart underway _ _ _ _ _ _ fun u p => mode_setDisposition u p ..
    · exact underway_badParam underway _ _
  | windowOpen tag rsv w o a b l =>
    change mode (s.runWindowOpen ..) ≠ _
    unfold State.runWindowOpen
    split
    · exact underway_executePart underway _ _ _ _ _ _ fun u p => mode_openWindow u _ p ..
    · exact underway_badParam underway _ _
  | windowLock => exact underway_executeWindow underway _ _ _ _ _ mode_lockWindow
  | windowClose => exact underway_executeWindow underway _ _ _ _ _ fun u w => mode_closeWindow u w _
  | fenceSet => exact underway_executeFence underway _ _ _ _ _ fun u f => mode_setFence u f ..
  | fenceClear => exact underway_executeFence underway _ _ _ _ _ mode_clearFence
  | fenceLock => exact underway_execute underway 0x1A _ _ State.readNone State.lockFences fun u => mode_withFences u _
  | poolSet => exact underway_executePart underway _ _ _ _ _ _ fun u p => mode_setPool u p ..
  | poolWatermark tag rsv w =>
    exact underway_execute underway 0x21 _ _ State.readNone (fun u => u.setWatermark w.toNat) fun u => mode_evalWatermark _
  | vectorSet tag rsv v e n h a d =>
    change mode (s.runVectorSet ..) ≠ _
    unfold State.runVectorSet
    split
    · exact underway_badParam underway _ _
    · exact underway_execute underway _ _ _ _ _ fun u => mode_withVector u ..
  | eventRingSet tag rsv n b =>
    exact underway_execute underway 0x30 _ _ State.readNone (fun u => (u.setEventRing n.toNat b).accept []) fun u =>
      mode_setEventRing u ..
  | linkSet tag rsv n =>
    exact underway_execute underway 0x38 _ _ State.readNone (fun u => u.setTimeout n.toNat) fun u => mode_withLink u _
  | unknownOpcode op tag =>
    change mode (s.commandRead.adminComplete ..) ≠ _
    rwa [mode_adminComplete, mode_commandRead]
  | _ => exact underway

end Underway

/-! ### The end of a stop -/

/-- R31: READY with no fence entry SETTING, or not READY. -/
def StopSettled (s : State) : Prop := mode s = .ready → ∀ f, (s.fence f).st ≠ .setting

section StopSettled
variable {s : State}

theorem stopSettled_of_underway (underway : mode s ≠ .ready) : StopSettled s := fun ready => absurd ready underway

/-- R191, R31: the end of a stop enters READY only with no entry SETTING. -/
theorem StopSettled.endStop (settled : StopSettled s) : StopSettled s.endStop := by
  rcases endStop_cases s with same | ⟨-, -, fences, quiet⟩
  · rwa [same]
  · intro _ f
    rw [State.fence, fences]
    exact quiet f

theorem stopSettled_finish (underway : mode s ≠ .ready) (before : Nat) (ws : List Work) : StopSettled (s.finish before ws) :=
  (stopSettled_of_underway (underway_settled underway before _ ws)).endStop

theorem stopSettled_finish_of {u : State} (underway : mode s ≠ .ready) (kept : mode u = mode s) (before : Nat) (ws : List Work) :
    StopSettled (u.finish before ws) :=
  stopSettled_finish (kept ▸ underway) before ws

theorem stopSettled_halted (c : HaltCause) : StopSettled (s.enterHalted c) := stopSettled_of_underway (by simp)

variable (underway : mode s ≠ .ready)
include underway

theorem stopSettled_discardCommandRead : StopSettled s.discardCommandRead :=
  (stopSettled_of_underway (s := s.withAdmin _) underway).endStop

theorem stopSettled_takeCommand {run : State → State} (kept : ∀ u, mode u ≠ .ready → mode (run u) ≠ .ready) :
    StopSettled (s.takeCommand run) := by
  unfold State.takeCommand
  split
  · exact stopSettled_of_underway (kept s underway)
  · exact stopSettled_discardCommandRead underway

theorem stopSettled_atSlot (i : SNum) (parts : List PNum) (act : State → Inner) (kept : mode (act s).1 = mode s) :
    StopSettled (s.atSlot i parts act) := by
  unfold State.atSlot
  split
  · exact stopSettled_halted _
  · exact stopSettled_finish_of underway kept _ _

theorem stopSettled_notifyPart (p : PNum) (act : State → Inner) (kept : mode (act s).1 = mode s) :
    StopSettled (s.notifyPart p act) := by
  unfold State.notifyPart
  split
  · exact stopSettled_of_underway (s := s.rejectNotify) underway
  · split
    · exact stopSettled_halted _
    · exact stopSettled_finish_of underway kept _ _

theorem stopSettled_deliver (q : ReadRequest) (bytes : List Byte) : StopSettled (s.deliver q bytes) := by
  have stays : StopSettled s.endStop := (stopSettled_of_underway underway).endStop
  unfold State.deliver
  split
  · exact stays
  · exact stopSettled_takeCommand underway fun u notReady => underway_runCommand notReady _
  · exact stopSettled_atSlot underway _ _ _ (mode_copyInReturn ..)
  · split
    · exact stays
    · exact stopSettled_atSlot underway _ _ _ (mode_recordReturn ..)

theorem stopSettled_deliverFailure (q : ReadRequest) (f : ReadFailure) : StopSettled (s.deliverFailure q f) := by
  have stays : StopSettled s.endStop := (stopSettled_of_underway underway).endStop
  unfold State.deliverFailure
  split
  · exact stays
  · unfold State.commandFailure
    split
    · exact stopSettled_of_underway (by simpa using underway)
    · exact stopSettled_discardCommandRead underway
  · exact stopSettled_atSlot underway _ _ _ (mode_copyInFailure ..)
  · split
    · exact stays
    · exact stopSettled_atSlot underway _ _ _ (mode_withAssembling ..)

/-- R191: the end of a card access may end the stop, in the inner events that follow or with no chunk left to take it. -/
theorem stopSettled_cardEnd {u : State} (kept : mode u = mode s) (n id : Nat) (o : CardOp) (act : State → SNum → Nat → Inner)
    (acts : ∀ u i k, mode (act u i k).1 = mode u) : StopSettled ((u.endAccess id).endAtSlot n o act).endStop := by
  have ended : mode (u.endAccess id) ≠ .ready := by rwa [mode_endAccess, kept]
  refine StopSettled.endStop ?_
  unfold State.endAtSlot
  split
  · exact stopSettled_of_underway ended
  · split_ifs
    · exact stopSettled_of_underway ended
    · split
      · exact stopSettled_halted _
      · exact stopSettled_finish_of ended (acts _ _ _) _ _

end StopSettled

/-- R191, R31: from a state that is not READY every command but a reset, an enable attempt and the end of the scrub comes to READY only
by the end of a stop. -/
theorem exec_stopSettled {c : Instr} {s t : State} (noReset : powerOnOrBus c = false) (noFunctionReset : ∀ b, c ≠ .functionReset b)
    (noLevelReset : c ≠ .pcieFunctionLevelReset) (inForce : s.device.st = .running ∨ s.device.st = .stopping)
    (h : exec c s = .next t) : StopSettled t := by
  have underway : mode s ≠ .ready := by rcases inForce with st | st <;> simp [mode, st]
  have notReady : s.device.st ≠ .ready := underway
  have notInit : s.device.st ≠ .init := by rcases inForce with st | st <;> simp [st]
  have stays : StopSettled s := stopSettled_of_underway underway
  have next {u : State} (settled : StopSettled u) (h : (.next u : Host.Outcome State Fault Refusal) = .next t) : StopSettled t :=
    Host.Outcome.next.inj h ▸ settled
  have same {u : State} (kept : mode u = mode s) : StopSettled u := stopSettled_of_underway (kept ▸ underway)
  cases c with
  | powerOnReset | busReset => cases noReset
  | functionReset b => exact absurd rfl (noFunctionReset b)
  | pcieFunctionLevelReset => exact absurd rfl noLevelReset
  | scrubComplete =>
    refine next ?_ h
    rwa [if_neg fun both => notInit both.2]
  | enableAttempt =>
    refine next ?_ h
    rwa [if_neg notReady]
  | adminSqBaseWrite | adminCqBaseWrite | adminSizesWrite =>
    refine next ?_ h
    rwa [State.writeRegister, if_neg notReady]
  | stop =>
    refine next ?_ h
    split
    · split
      · exact stopSettled_halted _
      · refine stopSettled_finish (fun ready => ?_) _ _
        rcases (steady_beginStop s).st with st | ⟨-, st⟩
        all_goals cases st.symm.trans ready
    · exact stays
  | registerWriteIgnored => exact next stays h
  | statusRead => exact next (same (u := s.withDevice _) rfl) h
  | notifyBadSelector => exact next (same (mode_rejectNotify s)) h
  | notifySqTail => exact next (stopSettled_notifyPart underway _ _ (mode_takeSqTail ..)) h
  | notifyCqHead => exact next (stopSettled_notifyPart underway _ _ (mode_takeCqHead ..)) h
  | notifyAdminSqTail | notifyAdminCqHead | notifyEventRingHead =>
    refine next ?_ h
    split
    all_goals exact same (by simp)
  | adminCommandReadIssue =>
    refine next ?_ h
    split
    all_goals exact same rfl
  | servePartition =>
    refine next ?_ h
    split
    · split
      · exact same rfl
      · exact stopSettled_halted _
    · exact stays
  | hostReadRequestIssue =>
    refine next ?_ h
    split
    all_goals exact same rfl
  | hostReadPartReturn =>
    refine next ?_ h
    split
    · dsimp only
      split
      · exact stopSettled_deliver (s := s.withTag _ _) underway _ _
      · exact same (mode_withTag ..)
    · exact stays
  | hostReadErrorResponse =>
    refine next ?_ h
    split
    · exact stopSettled_deliverFailure (s := s.withTag _ _) underway _ _
    · exact stays
  | hostReadTimeout =>
    refine next ?_ h
    split
    · exact stopSettled_deliverFailure (by rwa [mode_withTag, mode_elapse]) _ _
    · exact stays
  | tagQuarantineExpiry =>
    refine next ?_ h
    split
    all_goals exact same (by simp)
  | cardReadDataReturn n =>
    change (match s.cardRead n with | none => _ | some o => _) = _ at h
    split at h
    · exact next stays h
    next o _ =>
      split at h
      · cases h
      · refine next (stopSettled_cardEnd underway (u := s.readTaken o) (mode_scrubOn s) _ _ _ _ fun u i k => ?_) h
        split
        · exact mode_takeEccError ..
        · exact mode_takeReadData ..
  | cardReadEccError n =>
    change (match s.cardRead n with | none => _ | some o => _) = _ at h
    split at h
    · exact next stays h
    · exact next (stopSettled_cardEnd underway rfl _ _ _ _ fun u i k => mode_takeEccError ..) h
  | cardWriteAcknowledge n a b =>
    change (match s.cardWrite n with | none => _ | some o => _) = _ at h
    split at h
    · exact next stays h
    next o _ =>
      split at h
      · cases h
      · exact next (stopSettled_cardEnd underway (u := s.writeReached o a b) (mode_scrubOn s) _ _ _ _ fun u i k => mode_endChunk ..) h
  | postedWriteIssue =>
    refine next ?_ h
    split
    · exact stopSettled_finish_of underway (mode_issueFirst ..) _ _
    · exact stays
  | errorPathStep =>
    refine next ?_ h
    split
    · split
      · exact stopSettled_halted _
      · exact stopSettled_finish_of underway (mode_errorPath ..) _ _
    · exact stays
  | holdoffExpiry =>
    refine next ?_ h
    split
    all_goals exact same (by simp)
  | _ =>
    have returns := (exec_ringCommand rfl).symm.trans h
    unfold State.returnCommand at returns
    split at returns
    · exact next stays returns
    · exact next (stopSettled_takeCommand (s := s.withTag _ _) underway fun u notReady => underway_runCommand notReady _) returns

end Sys2Proof.Machine.Proofs
end

section
/-! The stop (R191, R52, R12, R169, R174, R31): O7. -/

namespace Sys2Proof.Machine.Proofs

open Laws

/-! ### What the stop's step does at once -/

section Begin
variable {s : State}

/-- R12: the close of a partition acts on OPEN windows alone. -/
theorem ownerCloses_of_notOpened {p : PNum} {w : Window} (notOpened : w.st ≠ .opened) : ownerCloses p w = w :=
  if_neg fun h => notOpened h.2

theorem ownerCloses_of_opened {p : PNum} {w : Window} (stays : (ownerCloses p w).st = .opened) : ownerCloses p w = w := by
  unfold ownerCloses at stays ⊢
  by_cases acts : w.owner = some p ∧ w.st = .opened
  · rw [if_pos acts] at stays
    split at stays <;> cases stays
  · rw [if_neg acts]

theorem closeWindows_window (p : PNum) (w : WNum) : (s.closeWindows p).window w = ownerCloses p (s.window w) := by
  rw [closeWindows_eq]
  exact look_mapTab ..

theorem closeAllWindows_of_notOpened {w : WNum} (notOpened : (s.window w).st ≠ .opened) (l : List PNum) :
    (s.closeAllWindows l).window w = s.window w := by
  induction l generalizing s with
  | nil => rfl
  | cons p l ih =>
    have stays : (s.closeWindows p).window w = s.window w := by rw [closeWindows_window, ownerCloses_of_notOpened notOpened]
    exact (ih (stays ▸ notOpened)).trans stays

/-- R52, R12: no window of a partition that a stop closes is OPEN after it. -/
theorem closeAllWindows_notOpened {w : WNum} {p : PNum} {l : List PNum} (owner : (s.window w).owner = some p) (closes : p ∈ l) :
    ((s.closeAllWindows l).window w).st ≠ .opened := by
  induction l generalizing s with
  | nil => cases closes
  | cons q l ih =>
    by_cases stillOpen : ((s.closeWindows q).window w).st = .opened
    · have same : (s.closeWindows q).window w = s.window w := by
        rw [closeWindows_window] at stillOpen ⊢
        exact ownerCloses_of_opened stillOpen
      have notHead : p ≠ q := by
        rintro rfl
        rw [closeWindows_window] at stillOpen same
        exact ownerCloses_notOpened _ ((congrArg Window.owner same).trans owner) stillOpen
      exact ih (same ▸ owner) ((List.mem_cons.mp closes).resolve_left notHead)
    · show (((s.closeWindows q).closeAllWindows l).window w).st ≠ .opened
      rwa [closeAllWindows_of_notOpened stillOpen]

/-- The partitions that a stop closes. -/
def stopCloses (s : State) : List PNum := which fun p => decide ((s.part p).st ≠ .closed) && decide ((s.part p).st ≠ .closing)

/-- R191, R174, R52, R169: STOPPING with the deferred answers discarded and the partitions CLOSING, before the windows close. -/
def stopTables (s : State) : State :=
  let t := ((s.withDevice fun d => { d with st := .stopping }).discardAnswers).withAdmin fun a =>
    { a with deferred := mapTab (fun _ d => d.map Deferred.taken) a.deferred }
  { t with parts := mapTab (fun _ (y : Partition) => y.stopped) t.parts }

theorem beginStop_fst (s : State) :
    s.beginStop.1 = (((stopTables s).closeAllWindows (stopCloses s)).abortRound .stop (which fun i => (s.slot i).occupied)).1 := (rfl)

theorem stopTables_part (p : PNum) : (stopTables s).part p = (s.part p).stopped := look_mapTab ..

theorem closeAllWindows_blocks (l : List PNum) :
    (s.closeAllWindows l).parts = s.parts ∧ (s.closeAllWindows l).admin = s.admin := by
  induction l generalizing s with
  | nil => exact ⟨rfl, rfl⟩
  | cons p l ih => exact ih

theorem berth_beginStop (s : State) : berth s.beginStop.1 = berth ((stopTables s).closeAllWindows (stopCloses s)) :=
  berth_abortRound ..

/-- R52: a stop leaves every partition CLOSED or CLOSING. -/
theorem beginStop_part (p : PNum) : (s.beginStop.1.part p).st = .closed ∨ (s.beginStop.1.part p).st = .closing := by
  have begun : (s.beginStop.1.part p).st = (s.part p).stopped.st := by
    refine (congrFun (congrArg (fun b p => (b.2.1 p).1) (berth_beginStop s)) p).trans ?_
    rw [← stopTables_part]
    exact congrArg (fun v : Vector Partition 16 => (look v p).st) (closeAllWindows_blocks _).1
  rw [begun]
  unfold Partition.stopped
  split
  next closed => exact .inl closed
  next closing => exact .inr closing
  all_goals exact .inr rfl

/-- R174: a stop discards every deferred answer. -/
theorem beginStop_deferred {i : Fin 8} {d : Deferred} (entry : look s.beginStop.1.admin.deferred i = some d) : d.post = false := by
  have begun : s.beginStop.1.admin.deferred
      = mapTab (fun _ d => d.map Deferred.taken) (mapTab (fun _ d => d.map Deferred.discarded) s.admin.deferred) :=
    (congrArg (fun b => b.2.2.1) (berth_beginStop s)).trans (congrArg Admin.deferred (closeAllWindows_blocks _).2)
  rw [begun, look_mapTab, look_mapTab] at entry
  obtain ⟨e, -, rfl⟩ : ∃ e, look s.admin.deferred i = some e ∧ Deferred.taken (Deferred.discarded e) = d := by
    simpa [Option.map_eq_some_iff] using entry
  unfold Deferred.taken
  split <;> rfl

theorem mem_stopCloses {p : PNum} : p ∈ stopCloses s ↔ (s.part p).st ≠ .closed ∧ (s.part p).st ≠ .closing := by
  simp [stopCloses]

theorem beginStop_window {w : WNum} {p : PNum} (owner : (s.window w).owner = some p) (open' : (s.part p).st ≠ .closed)
    (notClosing : (s.part p).st ≠ .closing) : (s.beginStop.1.window w).st ≠ .opened := by
  have begun : (s.beginStop.1.window w).st = (((stopTables s).closeAllWindows (stopCloses s)).window w).st :=
    congrFun (congrArg (fun b w => b.1 w) (berth_beginStop s)) w
  rw [begun]
  exact closeAllWindows_notOpened (s := stopTables s) owner (mem_stopCloses.mpr ⟨open', notClosing⟩)

end Begin

/-! ### The stop's whole step -/

section Taken
variable {s : State}

/-- R191, R52, R12, R13, R174: what the inner events and the end of the stop leave of the stop's beginning. -/
theorem stop_leaves {t : State} (finished : t = s.beginStop.1.finish s.sharedFree s.beginStop.2) :
    (∀ p, (t.part p).st = .closed ∨ (t.part p).st = .closing) ∧ (∀ i d, look t.admin.deferred i = some d → d.post = false)
      ∧ (∀ w p, (s.window w).owner = some p → (s.part p).st ≠ .closed → (s.part p).st ≠ .closing → (t.window w).st ≠ .opened)
      ∧ ∀ w, WindowKept (s.window w) (t.window w) := by
  let r := (State.settle Config.innerBound s.beginStop.1 s.beginStop.2).reevaluate s.sharedFree
  have ends : t = r.endStop := finished
  have onward : Onward (fun _ => True) s.beginStop.1 t := by
    have settled := onward_settle (ends := fun _ => True) s.beginStop.1 Config.innerBound s.beginStop.2 (fun _ _ => trivial)
      fun _ _ => trivial
    rw [ends]
    exact settled.before (berth_endStop.trans (berth_reevaluate ..))
  refine ⟨fun p => ?_, fun i d entry => ?_, fun w p owner notClosed notClosing opened => ?_, fun w => ?_⟩
  · rcases (onward.parts p).st with same | ⟨⟨notClosed, notClosing, -⟩, -⟩ | ⟨-, closed⟩
    · rw [same]
      exact beginStop_part p
    · exact absurd (beginStop_part p) (by tauto)
    · exact .inl closed
  · obtain ⟨e, was, post⟩ := onward.deferred i d entry
    exact post ▸ beginStop_deferred was
  · exact beginStop_window owner notClosed notClosing (onward.windows w opened)
  · have steady := (steady_beginStop s).trans (steady_settled s.beginStop.1 s.sharedFree Config.innerBound s.beginStop.2)
    have same : t.window w = r.window w := by
      rw [ends, State.endStop]
      split <;> rfl
    rw [same]
    exact steady.windows w

end Taken

/-! ### A stop that finds nothing to end -/

/-- Every partition CLOSED, every slot FREE, no command read and no deferred entry, and nothing on the link. -/
structure StopQuiet (s : State) : Prop where
  closed : ∀ p, (s.part p).st = .closed
  free : ∀ i, (s.slot i).st = .free
  noRead : s.admin.readOutstanding = false
  noDeferred : ∀ i, look s.admin.deferred i = none
  queue : s.link.queue = []
  tags : ∀ n, (s.tag n).isBusy = false
  store : s.link.store = []

section Quiet
variable {s : State} (quiet : StopQuiet s)
include quiet

/-- The device in STOPPING, and one order of aborts drawn. -/
theorem StopQuiet.beginStop :
    s.beginStop = ({ s with device := { s.device with st := .stopping }, draws := s.draws + 1 }, []) := by
  have posting : s.postingDeferred = 0 := by
    unfold State.postingDeferred
    simp only [quiet.noDeferred]
    rfl
  have deferred : mapTab (fun _ d => d.map Deferred.taken) (mapTab (fun _ d => d.map Deferred.discarded) s.admin.deferred)
      = s.admin.deferred := table_ext _ _ fun i => by rw [look_mapTab, look_mapTab, quiet.noDeferred i]; rfl
  have parts : mapTab (fun _ (y : Partition) => y.stopped) s.parts = s.parts := by
    refine table_ext _ _ fun p => ?_
    have closed : (look s.parts p).st = .closed := quiet.closed p
    rw [look_mapTab, Partition.stopped, closed]
  have none : stopCloses s = [] := List.filter_eq_nil_iff.mpr fun p _ => by simp [quiet.closed p]
  have vacant : (which fun i => (s.slot i).occupied) = [] := List.filter_eq_nil_iff.mpr fun i _ => by simp [Slot.occupied, quiet.free i]
  have tables : stopTables s = { s with device := { s.device with st := .stopping } } := by
    have admin : (stopTables s).admin = s.admin := by
      show ({ s.admin with
          reserved := s.admin.reserved - ((s.withDevice fun d => { d with st := .stopping }).postingDeferred
            + if s.admin.readOutstanding then 1 else 0)
          deferred := mapTab (fun _ d => d.map Deferred.taken) (mapTab (fun _ d => d.map Deferred.discarded) s.admin.deferred) } : Admin) = _
      rw [deferred, quiet.noRead, show (s.withDevice _).postingDeferred = 0 from posting]
      rfl
    have parts' : (stopTables s).parts = s.parts := parts
    show ({ s with device := { s.device with st := .stopping }, admin := (stopTables s).admin, parts := (stopTables s).parts } : State) = _
    rw [admin, parts']
  refine Prod.ext ?_ ?_
  · rw [beginStop_fst, tables, none, vacant]
    rfl
  · show ((stopCloses s).filter _).map _ ++ (State.abortOrder _ (which fun i => (s.slot i).occupied)).map _ = _
    rw [none, vacant]
    rfl

/-- R191, R31: the stop ends in its own step where no fence entry is SETTING, and waits where one is. -/
theorem StopQuiet.endStop (u : State) (hu : u = { s with device := { s.device with st := .stopping }, draws := s.draws + 1 }) :
    ((∀ f, (s.fence f).st ≠ .setting) → u.endStop = { s with
        device := { s.device with st := .ready }
        admin := { s.admin with faulted := false, faultCause := none, reserved := 0 }
        draws := s.draws + 1 })
      ∧ (∀ f, (s.fence f).st = .setting → u.endStop = u) := by
  obtain rfl := hu
  refine ⟨fun unset => ?_, fun f setting => ?_⟩
  · refine (if_pos ?_).trans rfl
    simp only [State.stopping, State.stopDone, Bool.and_eq_true, List.all_eq_true, List.mem_finRange, decide_eq_true_eq, forall_const,
      List.isEmpty_iff, Bool.not_eq_true', Option.isNone_iff_eq_none, true_and]
    exact ⟨⟨⟨⟨⟨⟨quiet.closed, quiet.noRead⟩, quiet.noDeferred⟩, quiet.queue⟩, quiet.tags⟩, quiet.store⟩, unset⟩
  · refine if_neg fun done => ?_
    simp only [State.stopDone, Bool.and_eq_true, List.all_eq_true, List.mem_finRange, decide_eq_true_eq, forall_const] at done
    exact done.2.2 f setting

end Quiet

/-- Settles O7: no command enters READY but at the end of a stop, which finds no entry SETTING; the stop closes every partition at
once, and the inner events that follow bring none back; where nothing is left to end, the stop's end is decided on the state itself. -/
theorem stopTaken : Obligations.StopTaken := by
  refine ⟨fun c s t noReset noFunctionReset noLevelReset inForce h =>
    exec_stopSettled noReset noFunctionReset noLevelReset inForce h, fun s running good => ?_⟩
  have taken := exec_stop_running running good
  refine ⟨⟨_, taken, ?_⟩, fun closed free noRead noDeferred queue tags store => ?_⟩
  · obtain ⟨parts, deferred, closes, kept⟩ := stop_leaves (s := s) rfl
    refine ⟨finish_stopping_or_ready (intact_beginStop good) rfl _ _, parts, deferred, closes, fun w locked => ?_, exec_stop_kept taken⟩
    have stays := (kept w).locked locked
    obtain ⟨-, owner, base, length, access⟩ := (kept w).record (by rw [stays]; decide)
    exact ⟨stays, owner, base, length, access⟩
  · have quiet : StopQuiet s := ⟨closed, free, noRead, noDeferred, queue, tags, store⟩
    have only : exec .stop s = .next
        ({ s with device := { s.device with st := .stopping }, draws := s.draws + 1 } : State).endStop := by
      rw [taken, quiet.beginStop]
      unfold State.finish
      rw [settle_nil]
      exact congrArg (Host.Outcome.next ∘ State.endStop) (reevaluate_same _ _ rfl)
    obtain ⟨ends, waits⟩ := quiet.endStop _ rfl
    exact ⟨fun unset => by rw [only, ends unset], fun f setting => by rw [only, waits f setting]⟩

end Sys2Proof.Machine.Proofs
end
